-- ==== Sys2Proof/Word.lean ====
section
/-! DEFINITION. The word types of the MGM-AE engine (spec/10_state.md R21 to R34): bytes, 32-bit scalar
registers, 64-bit counters, 128-bit blocks, and 32-byte keys. Only types and the key length stand here. -/

namespace Sys2Proof

/-- A byte is 8 bits (R50). -/
abbrev Byte := BitVec 8

/-- A 32-bit scalar register or command word (R21 to R23, R70). -/
abbrev Word := BitVec 32

/-- A 64-bit counter, the widest scalar register (R33, R52). -/
abbrev DWord := BitVec 64

/-- A 128-bit value: the accumulator, a counter, a block (R27, R32). A block of an 8-byte cipher lies in the
low 64 bits and the high half is zero, as R27 says of `K[s].ctr`. -/
abbrev Block := BitVec 128

/-- `KEY_BYTES = 32`, the one accepted key length (R7). -/
abbrev keyBytes : Nat := 32

/-- A key is a sequence of 32 bytes, byte 0 first (R26). -/
abbrev Key := Vector Byte keyBytes

/-- `zero(32)`, the key of a slot that holds none (R26). -/
def zeroKey : Key := Vector.replicate keyBytes 0

end Sys2Proof
end

