-- ==== Sys2Proof/Syntax.lean ====
section
/-! DEFINITION. The commands of the engine: one constructor of `Instr` for each of the 20 rows of
spec/opcode_table.json, with the operands that the command word carries (spec/30_encoding.md R71 to R74). All other
operands of a command are in the operand registers and buffers. -/

namespace Sys2Proof

/-- The number of a key slot, 0 or 1 (R24, R72). -/
inductive SlotId where
  | slot0
  | slot1
deriving DecidableEq, Repr

/-- The other slot, `1 - s` (R99). -/
def SlotId.other : SlotId → SlotId
  | .slot0 => .slot1
  | .slot1 => .slot0

/-- The 20 commands (R73). `k` is the `KS` field; `ek` and `ak` are `KS` and `AK` in their MGM roles; `validate` and
`first` are `FLG`; `bs` and `taglen` are the immediate `ARG`, an unsigned number used as it is (R72). -/
inductive Instr where
  /-- `KCREATE s, bs` (R92) -/
  | kcreate (k : SlotId) (bs : Nat)
  /-- `KSET s, validate` (R93) -/
  | kset (k : SlotId) (validate : Bool)
  /-- `KSETRND s, validate` (R94) -/
  | ksetrnd (k : SlotId) (validate : Bool)
  /-- `KSETPWD s, validate` (R95) -/
  | ksetpwd (k : SlotId) (validate : Bool)
  /-- `KENC s` (R96) -/
  | kenc (k : SlotId)
  /-- `KDEC s` (R97) -/
  | kdec (k : SlotId)
  /-- `KDESTROY s` (R98) -/
  | kdestroy (k : SlotId)
  /-- `ECBENC s` (R111) -/
  | ecbenc (k : SlotId)
  /-- `ECBDEC s` (R112) -/
  | ecbdec (k : SlotId)
  /-- `CTR s, first` (R115) -/
  | ctr (k : SlotId) (first : Bool)
  /-- `ACPKM s, first` (R116) -/
  | acpkm (k : SlotId) (first : Bool)
  /-- `OMAC s` (R120) -/
  | omac (k : SlotId)
  /-- `MGMACLEAN ek, ak` (R135) -/
  | mgmaclean (ek ak : SlotId)
  /-- `MGMAUPD` (R136) -/
  | mgmaupd
  /-- `MGMECLEAN` (R137) -/
  | mgmeclean
  /-- `MGMENC` (R139) -/
  | mgmenc
  /-- `MGMDEC` (R140) -/
  | mgmdec
  /-- `MGMFIN taglen` (R142) -/
  | mgmfin (taglen : Nat)
  /-- `MGMENCALL ek, ak, taglen` (R161) -/
  | mgmencall (ek ak : SlotId) (taglen : Nat)
  /-- `MGMDECALL ek, ak, taglen` (R162) -/
  | mgmdecall (ek ak : SlotId) (taglen : Nat)
deriving DecidableEq, Repr

/-- The 20 assigned opcodes, by mnemonic (R73). -/
inductive Opcode where
  | kcreate | kset | ksetrnd | ksetpwd | kenc | kdec | kdestroy
  | ecbenc | ecbdec | ctr | acpkm | omac
  | mgmaclean | mgmaupd | mgmeclean | mgmenc | mgmdec | mgmfin
  | mgmencall | mgmdecall
deriving DecidableEq, Repr

/-- The fields of format `C` (R71): `KS`, `AK`, `FLG` and the 5-bit immediate `ARG`. -/
structure Fields where
  ks : SlotId
  ak : SlotId
  flg : Bool
  arg : Nat
deriving DecidableEq, Repr

end Sys2Proof
end

