-- ==== Sys2Proof/WellFormed.lean ====
section
/-! DEFINITION. Which instruction terms stand for a command word: the immediate `ARG` is a 5-bit unsigned number
(spec/30_encoding.md R71, R72, R82). The other operands are in range by their types. A block size or tag length that
a command does not accept is well formed: it decodes, and the command's own check refuses it (R76). -/

namespace Sys2Proof

/-- The immediate fits its 5-bit field: 0 to 31 (R72, R82). -/
def argFits (n : Nat) : Bool := n < 32

/-- The instruction can be written as a command word. -/
def Instr.wf : Instr → Bool
  | .kcreate _ bs => argFits bs
  | .kset _ _ => true
  | .ksetrnd _ _ => true
  | .ksetpwd _ _ => true
  | .kenc _ => true
  | .kdec _ => true
  | .kdestroy _ => true
  | .ecbenc _ => true
  | .ecbdec _ => true
  | .ctr _ _ => true
  | .acpkm _ _ => true
  | .omac _ => true
  | .mgmaclean _ _ => true
  | .mgmaupd => true
  | .mgmeclean => true
  | .mgmenc => true
  | .mgmdec => true
  | .mgmfin taglen => argFits taglen
  | .mgmencall _ _ taglen => argFits taglen
  | .mgmdecall _ _ taglen => argFits taglen

end Sys2Proof
end

