-- ==== Sys2Proof/Decode.lean ====
section
/-! DEFINITION. Decoding a command word and encoding a command, from spec/30_encoding.md R70 to R77. Decoding is
total on all `2^32` words: a word is one of the 20 commands or illegal (`none`), and nothing outside the word changes
how it is decoded (R70). After the decoder stands the encoder, and the reading of a row of spec/opcode_table.json. -/

namespace Sys2Proof

/-- `OPC` of each command (R73). -/
def Opcode.code : Opcode → BitVec 8
  | .kcreate => 0x01
  | .kset => 0x02
  | .ksetrnd => 0x03
  | .ksetpwd => 0x04
  | .kenc => 0x05
  | .kdec => 0x06
  | .kdestroy => 0x07
  | .ecbenc => 0x10
  | .ecbdec => 0x11
  | .ctr => 0x12
  | .acpkm => 0x13
  | .omac => 0x14
  | .mgmaclean => 0x20
  | .mgmaupd => 0x21
  | .mgmeclean => 0x22
  | .mgmenc => 0x23
  | .mgmdec => 0x24
  | .mgmfin => 0x25
  | .mgmencall => 0x28
  | .mgmdecall => 0x29

/-- The used-field mask `U` of each command: the bits other than `OPC` that may be non-zero (R74). -/
def Opcode.used : Opcode → Word
  | .kcreate => 0x001F0100
  | .kset => 0x00000500
  | .ksetrnd => 0x00000500
  | .ksetpwd => 0x00000500
  | .kenc => 0x00000100
  | .kdec => 0x00000100
  | .kdestroy => 0x00000100
  | .ecbenc => 0x00000100
  | .ecbdec => 0x00000100
  | .ctr => 0x00000500
  | .acpkm => 0x00000500
  | .omac => 0x00000100
  | .mgmaclean => 0x00000300
  | .mgmaupd => 0x00000000
  | .mgmeclean => 0x00000000
  | .mgmenc => 0x00000000
  | .mgmdec => 0x00000000
  | .mgmfin => 0x001F0000
  | .mgmencall => 0x001F0300
  | .mgmdecall => 0x001F0300

/-- The `mask` column of R74 and of spec/opcode_table.json, written out as it stands there. -/
def Opcode.tableMask : Opcode → Word
  | .kcreate => 0xFFE0FEFF
  | .kset => 0xFFFFFAFF
  | .ksetrnd => 0xFFFFFAFF
  | .ksetpwd => 0xFFFFFAFF
  | .kenc => 0xFFFFFEFF
  | .kdec => 0xFFFFFEFF
  | .kdestroy => 0xFFFFFEFF
  | .ecbenc => 0xFFFFFEFF
  | .ecbdec => 0xFFFFFEFF
  | .ctr => 0xFFFFFAFF
  | .acpkm => 0xFFFFFAFF
  | .omac => 0xFFFFFEFF
  | .mgmaclean => 0xFFFFFCFF
  | .mgmaupd => 0xFFFFFFFF
  | .mgmeclean => 0xFFFFFFFF
  | .mgmenc => 0xFFFFFFFF
  | .mgmdec => 0xFFFFFFFF
  | .mgmfin => 0xFFE0FFFF
  | .mgmencall => 0xFFE0FCFF
  | .mgmdecall => 0xFFE0FCFF

/-- The `match` column of R74 and of spec/opcode_table.json, written out as it stands there. -/
def Opcode.tableMatch : Opcode → Word
  | .kcreate => 0x00000001
  | .kset => 0x00000002
  | .ksetrnd => 0x00000003
  | .ksetpwd => 0x00000004
  | .kenc => 0x00000005
  | .kdec => 0x00000006
  | .kdestroy => 0x00000007
  | .ecbenc => 0x00000010
  | .ecbdec => 0x00000011
  | .ctr => 0x00000012
  | .acpkm => 0x00000013
  | .omac => 0x00000014
  | .mgmaclean => 0x00000020
  | .mgmaupd => 0x00000021
  | .mgmeclean => 0x00000022
  | .mgmenc => 0x00000023
  | .mgmdec => 0x00000024
  | .mgmfin => 0x00000025
  | .mgmencall => 0x00000028
  | .mgmdecall => 0x00000029

/-- Every assigned opcode, in the order of R73. -/
def Opcode.all : List Opcode :=
  [.kcreate, .kset, .ksetrnd, .ksetpwd, .kenc, .kdec, .kdestroy,
   .ecbenc, .ecbdec, .ctr, .acpkm, .omac,
   .mgmaclean, .mgmaupd, .mgmeclean, .mgmenc, .mgmdec, .mgmfin, .mgmencall, .mgmdecall]

/-- The command that an `OPC` value names, if it is assigned; all 8 bits are matched (R70, R73). -/
def opcodeOf (opc : BitVec 8) : Option Opcode :=
  Opcode.all.find? fun op => op.code == opc

/-- A one-bit slot field read as a slot number (R72). -/
def SlotId.ofBit (b : Bool) : SlotId := if b then .slot1 else .slot0

/-- A slot number as its one-bit field. -/
def SlotId.bit : SlotId → Bool
  | .slot0 => false
  | .slot1 => true

/-- The fields of a command word: `KS` in bit 8, `AK` in bit 9, `FLG` in bit 10, `ARG` in bits 20:16 (R71). -/
def fieldsOf (w : Word) : Fields where
  ks := SlotId.ofBit (w.getLsbD 8)
  ak := SlotId.ofBit (w.getLsbD 9)
  flg := w.getLsbD 10
  arg := (w.extractLsb' 16 5).toNat

/-- The command of an opcode with the operands it takes from the fields (R71, R74). -/
def Opcode.build (f : Fields) : Opcode → Instr
  | .kcreate => .kcreate f.ks f.arg
  | .kset => .kset f.ks f.flg
  | .ksetrnd => .ksetrnd f.ks f.flg
  | .ksetpwd => .ksetpwd f.ks f.flg
  | .kenc => .kenc f.ks
  | .kdec => .kdec f.ks
  | .kdestroy => .kdestroy f.ks
  | .ecbenc => .ecbenc f.ks
  | .ecbdec => .ecbdec f.ks
  | .ctr => .ctr f.ks f.flg
  | .acpkm => .acpkm f.ks f.flg
  | .omac => .omac f.ks
  | .mgmaclean => .mgmaclean f.ks f.ak
  | .mgmaupd => .mgmaupd
  | .mgmeclean => .mgmeclean
  | .mgmenc => .mgmenc
  | .mgmdec => .mgmdec
  | .mgmfin => .mgmfin f.arg
  | .mgmencall => .mgmencall f.ks f.ak f.arg
  | .mgmdecall => .mgmdecall f.ks f.ak f.arg

/-- No bit outside `OPC` and the command's used fields is set (R70 step 3). -/
def reservedClear (op : Opcode) (w : Word) : Bool :=
  w &&& ~~~(0x000000FF#32 ||| op.used) == 0#32

/-- The command a word stands for; `none` is an illegal word (R70, R75). -/
def decode (w : Word) : Option Instr :=
  match opcodeOf (w.extractLsb' 0 8) with
  | none => none
  | some op => if reservedClear op w then some (op.build (fieldsOf w)) else none

/-- The opcode of a command (R73). -/
def Instr.opcode : Instr → Opcode
  | .kcreate _ _ => .kcreate
  | .kset _ _ => .kset
  | .ksetrnd _ _ => .ksetrnd
  | .ksetpwd _ _ => .ksetpwd
  | .kenc _ => .kenc
  | .kdec _ => .kdec
  | .kdestroy _ => .kdestroy
  | .ecbenc _ => .ecbenc
  | .ecbdec _ => .ecbdec
  | .ctr _ _ => .ctr
  | .acpkm _ _ => .acpkm
  | .omac _ => .omac
  | .mgmaclean _ _ => .mgmaclean
  | .mgmaupd => .mgmaupd
  | .mgmeclean => .mgmeclean
  | .mgmenc => .mgmenc
  | .mgmdec => .mgmdec
  | .mgmfin _ => .mgmfin
  | .mgmencall _ _ _ => .mgmencall
  | .mgmdecall _ _ _ => .mgmdecall

/-- The fields of a command, every field it does not use at 0 (R71). -/
def Instr.fields : Instr → Fields
  | .kcreate k bs => ⟨k, .slot0, false, bs⟩
  | .kset k validate => ⟨k, .slot0, validate, 0⟩
  | .ksetrnd k validate => ⟨k, .slot0, validate, 0⟩
  | .ksetpwd k validate => ⟨k, .slot0, validate, 0⟩
  | .kenc k => ⟨k, .slot0, false, 0⟩
  | .kdec k => ⟨k, .slot0, false, 0⟩
  | .kdestroy k => ⟨k, .slot0, false, 0⟩
  | .ecbenc k => ⟨k, .slot0, false, 0⟩
  | .ecbdec k => ⟨k, .slot0, false, 0⟩
  | .ctr k first => ⟨k, .slot0, first, 0⟩
  | .acpkm k first => ⟨k, .slot0, first, 0⟩
  | .omac k => ⟨k, .slot0, false, 0⟩
  | .mgmaclean ek ak => ⟨ek, ak, false, 0⟩
  | .mgmaupd => ⟨.slot0, .slot0, false, 0⟩
  | .mgmeclean => ⟨.slot0, .slot0, false, 0⟩
  | .mgmenc => ⟨.slot0, .slot0, false, 0⟩
  | .mgmdec => ⟨.slot0, .slot0, false, 0⟩
  | .mgmfin taglen => ⟨.slot0, .slot0, false, taglen⟩
  | .mgmencall ek ak taglen => ⟨ek, ak, false, taglen⟩
  | .mgmdecall ek ak taglen => ⟨ek, ak, false, taglen⟩

/-- A word of format `C` from its opcode and fields (R71): the bits outside them are 0. -/
def wordOf (op : Opcode) (f : Fields) : Word :=
  op.code.setWidth 32
    ||| (BitVec.ofBool f.ks.bit).setWidth 32 <<< 8
    ||| (BitVec.ofBool f.ak.bit).setWidth 32 <<< 9
    ||| (BitVec.ofBool f.flg).setWidth 32 <<< 10
    ||| (BitVec.ofNat 5 f.arg).setWidth 32 <<< 16

/-- The command word of a command (R71 to R74). -/
def encode (i : Instr) : Word := wordOf i.opcode i.fields

/-- The instruction the decoder reads from a row of spec/opcode_table.json whose bits are `w`. A command is one 32-bit
word written whole to `CMD`, so it has no byte order (R53, R77) and the row's bits are the word's; a number that does
not fit 32 bits is no command word. -/
def decodeTableWord (nbits w : Nat) : Option Instr :=
  if w % 2 ^ nbits < 2 ^ 32 then decode (BitVec.ofNat 32 (w % 2 ^ nbits)) else none

end Sys2Proof
end

