-- ==== Sys2Proof/Config.lean ====
section
/-! DEFINITION. What an implementation of the engine fixes and the spec leaves open: `BUF_BYTES` and the
configuration functions of spec/00_scope.md R8 to R14, as ONE record, and the configuration of the machine as an
opaque constant with no body. The fixed parameters of R7 stand here too. -/

namespace Sys2Proof

/-- `TAG_MIN_BYTES = 4` (R7). -/
abbrev tagMinBytes : Nat := 4

/-- `TAG_MAX_BYTES = 16` (R7). -/
abbrev tagMaxBytes : Nat := 16

/-- `MAX_BITS = 2^64 - 1`, the largest value a length counter may reach (R7, R141). -/
abbrev maxBits : Nat := 2 ^ 64 - 1

/-- The configuration of an engine. Every field is total and pure (R206). A Boolean argument that selects a cipher
is the slot's `bs16`: `true` for the 16-byte block (Cipher-B), `false` for the 8-byte block (Cipher-A) (R9, R25). -/
structure Config where
  /-- Cipher-A: `Enc(8, key, ·)` with its inverse `Dec(8, key, ·)`. A permutation of the 64-bit blocks is a pair of
  mutually inverse functions, which is `EncDecInverse` (R10) and no other assumption. -/
  cipherA : Key → Equiv.Perm (BitVec 64)
  /-- Cipher-B: `Enc(16, key, ·)` with its inverse `Dec(16, key, ·)` (R10). -/
  cipherB : Key → Equiv.Perm (BitVec 128)
  /-- `ScheduleOk(bs, key, validate)`, of which nothing is assumed (R11). -/
  scheduleOk : Bool → Key → Bool → Bool
  /-- `GFMUL(a, b)` (R12). Its default is `Machine.gfmulDefault`. -/
  gfmul : Block → Block → Block
  /-- `INCR_Z(v)`, the advance of the authentication counter (R13). Its default is `Machine.incrZDefault`. -/
  incrZ : Block → Block
  /-- `INCR_Y(v)`, the advance of the encryption counter (R13). Its default is `Machine.incrYDefault`. -/
  incrY : Block → Block
  /-- `ACPKM_NEXT(bs, key)`, the key evolution (R14, R118). Its default is `Machine.acpkmNextDefault`. -/
  acpkmNext : Bool → Key → Key
  /-- `KDF(password, salt, k)`: `none` is the answer `fail` (R14). -/
  kdf : List Byte → List Byte → (k : Nat) → Option (Vector Byte k)
  /-- The answer of the n-th draw of `RNG(k)`: `none` is the answer `exhausted`. A draw under no law (R14, I10); the
  step applies it to the counter `State.draws`. -/
  rng : Nat → (k : Nat) → Option (Vector Byte k)
  /-- `BUF_BYTES = 16 * bufUnits + 64`: as `bufUnits` runs over its type, `BUF_BYTES` runs over exactly the multiples
  of 16 from 64 up to below `2^32` (R8). -/
  bufUnits : Fin 268435452
deriving Inhabited

/-- `BUF_BYTES` (R8). -/
def Config.bufBytes (c : Config) : Nat := 16 * c.bufUnits.val + 64

/-- The configuration of the machine: an uninterpreted constant, so that whatever is proved of the machine holds for
every configuration that R206 allows. -/
opaque Config.machine : Config

end Sys2Proof
end

