-- ==== Sys2Proof/Machine/Bytes.lean ====
section
/-! DEFINITION. Byte sequences and block values: the big-endian map of spec/00_scope.md R16, the byte primitives of
R17, and the cutting of a chunk into blocks. -/

namespace Sys2Proof.Machine

open Sys2Proof

/-- `be(b)`: the byte at the lowest offset is the most significant (R16, R53). -/
def be (b : List Byte) : Nat := b.foldl (fun acc x => acc * 256 + x.toNat) 0

/-- `bytes_k(v)`: the `8k`-bit value `v` as `k` bytes, most significant first (R16). -/
def bytesOf : (k : Nat) → (v : Nat) → List Byte
  | 0, _ => []
  | k + 1, v => BitVec.ofNat 8 (v / 256 ^ k) :: bytesOf k v

/-- The value of a block of at most 16 bytes (R16). -/
def blockOf (b : List Byte) : Block := BitVec.ofNat 128 (be b)

/-- `zero(k)` (R17). -/
def zeros (k : Nat) : List Byte := List.replicate k 0

/-- `pad16(b) = b || zero(16 - len(b))` (R17). -/
def pad16 (b : List Byte) : List Byte := b ++ zeros (16 - b.length)

/-- Bytewise `xor`, as long as the shorter of the two: the leading bytes of a keystream block serve a partial block
(R114, R138). -/
def xorBytes (a b : List Byte) : List Byte := List.zipWith (· ^^^ ·) a b

/-- At most `fuel` blocks of `bs` bytes from the front of a sequence, the last one possibly shorter. -/
def blocksUpTo (bs : Nat) : (fuel : Nat) → List Byte → List (List Byte)
  | 0, _ => []
  | _ + 1, [] => []
  | fuel + 1, x :: xs => (x :: xs).take bs :: blocksUpTo bs fuel ((x :: xs).drop bs)

/-- The blocks at offsets `0, bs, 2*bs, ... < len(b)`, each of `min(bs, len(b) - o)` bytes, in increasing offset
order (R17, R114, R136, R138). -/
def blocks (bs : Nat) (b : List Byte) : List (List Byte) := blocksUpTo bs b.length b

end Sys2Proof.Machine
end

