-- ==== Sys2Proof/Machine/State.lean ====
section
/-! DEFINITION. The state of the engine as plain data, all that spec/10_state.md R20 to R38 and spec/20_memory.md R50
give it, with the host's side of the interface (R57) beside it, the reasons a step can stop, and the state after
reset (R38, R190). -/

namespace Sys2Proof.Machine

open Sys2Proof

/-- The error code names of `STATUS.ERR` (R170), numbered in `Flags.lean`. Codes 12 to 255 never occur, so they have no
name; `allocationFailure` is never raised (R179) and keeps its number. -/
inductive ErrCode where
  | ok
  | invalidParameter
  | invalidKeyLength
  | scheduleFailure
  | invalidIVLength
  | phaseViolation
  | dataTooLong
  | authenticationFailed
  | allocationFailure
  | invalidLength
  | randomSourceExhausted
  | kdfFailure
deriving DecidableEq, Repr

/-- `M.phase` (R31). -/
inductive Phase where
  | clean
  | auth
  | enc
  | finalized
deriving DecidableEq, Repr

/-- `K[s].st` (R25): the value 3 of the two-bit field never occurs. -/
inductive SlotState where
  | empty
  | created
  | keyed
deriving DecidableEq, Repr

/-- `K[s].kind` (R28): 0 a plain CTR stream, 1 an ACPKM stream. -/
inductive StreamKind where
  | ctr
  | acpkm
deriving DecidableEq, Repr

/-- One key slot (R24 to R28). -/
structure Slot where
  /-- the life-cycle state (R25) -/
  st : SlotState
  /-- `bs = 16` when set, else 8 (R25) -/
  bs16 : Bool
  /-- the installed key (R26) -/
  key : Key
  /-- the running CTR counter, in the low `8*bs` bits (R27) -/
  ctr : Block
  /-- a CTR or ACPKM stream is open (R28) -/
  live : Bool
  /-- which stream is open (R28) -/
  kind : StreamKind
  /-- the ACPKM working key (R28) -/
  wkey : Key
  /-- the section size latched when the ACPKM stream was opened (R28) -/
  secsz : Word
  /-- bytes of the current section already processed (R28) -/
  secpos : Word
deriving DecidableEq, Repr

/-- The zeroized slot, which is also its reset value (R29). -/
def Slot.zeroized : Slot where
  st := .empty
  bs16 := false
  key := zeroKey
  ctr := 0
  live := false
  kind := .ctr
  wkey := zeroKey
  secsz := 0
  secpos := 0

/-- The MGM session `M` (R30 to R34). -/
structure Session where
  /-- the phase (R31) -/
  phase : Phase
  /-- the accumulator (R32) -/
  sum : Block
  /-- the encryption counter (R32) -/
  y : Block
  /-- the authentication counter (R32) -/
  z : Block
  /-- `processed_associated_bits`, read as `ABITS` (R33) -/
  abits : DWord
  /-- `processed_plaintext_bits`, read as `PBITS` (R33) -/
  pbits : DWord
  /-- the associated-data phase accepts no further chunk (R33) -/
  aclosed : Bool
  /-- the data phase accepts no further chunk (R33) -/
  eclosed : Bool
  /-- the latched IV, zero from byte `ivlen` on (R34) -/
  iv : Vector Byte 16
  /-- the latched IV length, 0 to 15 (R34) -/
  ivlen : BitVec 5
  /-- the encryption-key slot (R34) -/
  ek : SlotId
  /-- the authentication-key slot (R34) -/
  ak : SlotId
deriving DecidableEq, Repr

/-- The session at reset: everything 0 and the phase CLEAN (R38). -/
def Session.cleared : Session where
  phase := .clean
  sum := 0
  y := 0
  z := 0
  abits := 0
  pbits := 0
  aclosed := false
  eclosed := false
  iv := Vector.replicate 16 0
  ivlen := 0
  ek := .slot0
  ak := .slot0

/-- The contents of one buffer: the bytes that are not as after reset, by rising offset. An offset that is not listed
reads as `unlistedByte` (`Ops.lean`). -/
abbrev Memory := List Host.Cell

/-- The scalar registers of the host interface (R52). -/
inductive Reg where
  | cmd
  | status
  | alen
  | dlen
  | klen
  | ivlen
  | secsz
  | abits
  | pbits
deriving DecidableEq, Repr

/-- The seven buffers, each a space of its own (R50). -/
inductive Space where
  | ivin
  | keyin
  | tagin
  | tag
  | ain
  | din
  | dout
deriving DecidableEq, Repr

/-- What the host can do to the engine: the four transactions of R57 with the numbers of R52 as the host gives them,
and the reset input, which may be asserted between transactions (R190). -/
inductive Transaction where
  /-- `WR reg, v`; no register is wider than 64 bits (R55, R58) -/
  | wr (reg : Nat) (v : DWord)
  /-- `RD reg` -/
  | rd (reg : Nat)
  /-- `WRB space, off, b` -/
  | wrb (space off : Nat) (b : List Byte)
  /-- `RDB space, off, k` -/
  | rdb (space off k : Nat)
  /-- the reset input is asserted and released (R190) -/
  | reset
deriving DecidableEq, Repr

/-- A transaction of the interface with its names resolved (R52, R65). -/
inductive Request where
  /-- `WR CMD, w`: the command step (R60) -/
  | command (w : Word)
  /-- `WR` of another scalar register (R57) -/
  | writeReg (r : Reg) (v : DWord)
  /-- `RD` (R57) -/
  | readReg (r : Reg)
  /-- `WRB` inside its buffer (R55, R57) -/
  | writeSpace (sp : Space) (off : Nat) (b : List Byte)
  /-- `RDB` inside its buffer (R55, R57) -/
  | readSpace (sp : Space) (off k : Nat)
  /-- the reset input (R190) -/
  | reset
deriving DecidableEq, Repr

/-- What a read transaction returns to the host (R57). -/
inductive Reply where
  /-- the value of a 32-bit register -/
  | word (v : Word)
  /-- the value of a 64-bit register -/
  | dword (v : DWord)
  /-- bytes of a buffer -/
  | bytes (b : List Byte)
deriving DecidableEq, Repr

/-- The reasons a step can end in a fault: none. "All errors are returned, never thrown as uncatchable faults"
(spec/60_exceptions.md): every error of a command is a code in `STATUS.ERR` and the engine goes on (R172 to R176), so
no step of this model faults (safe: the type says so). -/
inductive Fault where
deriving DecidableEq, Repr

/-- The reasons a step can be refused. Apart from `notModelled` they are host transactions that "are not part of the
interface" (R58, R65): they have no step. No command is ever refused. -/
inductive Refusal where
  /-- raised by an arm of `exec` that has no meaning yet; no arm of this model raises it. Safe: the run stops. -/
  | notModelled (mnemonic : String)
  /-- raised by `WR` or `RD` of a number that names no scalar register (R65). Safe: the run stops. -/
  | noSuchRegister (number : Nat)
  /-- raised by `WRB` or `RDB` of a number that names no buffer (R65). Safe: the run stops. -/
  | noSuchBuffer (number : Nat)
  /-- raised by `WR` of a value wider than the register (R58). Safe: the run stops. -/
  | valueTooWide (number : Nat)
  /-- raised by `WRB` or `RDB` of no bytes at all, `k = 0` (R65). Safe: the run stops. -/
  | emptyAccess
  /-- raised by `WRB` or `RDB` with `off + k > size` (R65). Safe: the run stops. -/
  | outsideBuffer
deriving DecidableEq, Repr

/-- The whole state. The fields from `alen` to `dout` are the engine's, as the spec gives them; `draws`, `pending` and
`reply` are the model's own and stand for the world outside the engine. `CMD` stores nothing and reads as 0 (R22), and
`STATUS` is a view, but for `ERR` and `VERDICT` (R23). -/
structure State where
  /-- valid bytes in `AIN` (R21) -/
  alen : Word
  /-- valid bytes in `DIN` (R21) -/
  dlen : Word
  /-- valid bytes in `KEYIN` (R21) -/
  klen : Word
  /-- valid bytes in `IVIN` (R21) -/
  ivlen : Word
  /-- the ACPKM section size in bytes (R21) -/
  secsz : Word
  /-- `STATUS.ERR`, the outcome of the most recent command (R23, R170) -/
  err : ErrCode
  /-- `STATUS.VERDICT` (R23) -/
  verdict : Bool
  /-- `K[0]` (R24) -/
  k0 : Slot
  /-- `K[1]` (R24) -/
  k1 : Slot
  /-- the MGM session (R30) -/
  m : Session
  /-- `IVIN`, 16 bytes (R50) -/
  ivin : Memory
  /-- `KEYIN`, 32 bytes (R50) -/
  keyin : Memory
  /-- `TAGIN`, 16 bytes (R50) -/
  tagin : Memory
  /-- `TAG`, 16 bytes (R50) -/
  tag : Memory
  /-- `AIN`, `BUF_BYTES` bytes (R50) -/
  ain : Memory
  /-- `DIN`, `BUF_BYTES` bytes (R50) -/
  din : Memory
  /-- `DOUT`, `BUF_BYTES` bytes (R50) -/
  dout : Memory
  /-- MODEL: how many draws of `RNG` were made; the next draw is answered by `Config.rng` at this number (R14) -/
  draws : Nat
  /-- MODEL: the transactions the host has yet to issue, the next one first (R57, R61) -/
  pending : List Transaction
  /-- MODEL: what the most recent transaction returned to the host, if it was a read (R57) -/
  reply : Option Reply
deriving DecidableEq, Repr

/-- The machine right after reset (R38, R190): every element 0, phase CLEAN, both slots EMPTY, every byte of every
buffer 0. The three fields of the model's own start with no draw made, no transaction and no answer. -/
def State.reset : State where
  alen := 0
  dlen := 0
  klen := 0
  ivlen := 0
  secsz := 0
  err := .ok
  verdict := false
  k0 := Slot.zeroized
  k1 := Slot.zeroized
  m := Session.cleared
  ivin := []
  keyin := []
  tagin := []
  tag := []
  ain := []
  din := []
  dout := []
  draws := 0
  pending := []
  reply := none

end Sys2Proof.Machine
end

