-- ==== Sys2Proof/Machine/Ops.lean ====
section
/-! DEFINITION. The named operations every command is written with: reading and writing a buffer (spec/20_memory.md
R50, spec/00_scope.md R17), the key slots, the block cipher of a slot (R10), raising an error, which is the whole
exception entry of this hardware (spec/60_exceptions.md R172), ending a command, and the one shape of a command step
(R60). There is nothing to return from (R175): the engine is idle after every command, failed or not. -/

namespace Sys2Proof.Machine

open Sys2Proof

/-! ### Buffers -/

/-- What a byte that is not listed reads as: every byte of every buffer is 0 after reset (R38). -/
def unlistedByte : Byte := 0

/-- One byte of a buffer. -/
def Memory.read : Memory → Nat → Byte
  | [], _ => unlistedByte
  | (b, v) :: m, a => if a = b then v else Memory.read m a

/-- The listing of one byte: none when it is what an unlisted byte reads as. -/
def cellFor (a : Nat) (v : Byte) : List Host.Cell := if v = unlistedByte then [] else [(a, v)]

/-- Write one byte of a buffer, keeping the canonical form. -/
def Memory.write : Memory → Nat → Byte → Memory
  | [], a, v => cellFor a v
  | (b, w) :: m, a, v =>
    if a < b then cellFor a v ++ (b, w) :: m
    else if a = b then cellFor a v ++ m
    else (b, w) :: Memory.write m a v

/-- The canonical form: offsets strictly rising and no entry equal to what an unlisted byte reads as. -/
def Memory.wf : Memory → Bool
  | [] => true
  | (a, v) :: m => v != unlistedByte && m.all (fun c => decide (a < c.1)) && Memory.wf m

/-- Every listed offset lies inside a buffer of `n` bytes. -/
def Memory.within (n : Nat) (m : Memory) : Bool := m.all fun c => decide (c.1 < n)

/-- `MemRead(space, off, k)` (R17). -/
def Memory.readBytes (m : Memory) : (off k : Nat) → List Byte
  | _, 0 => []
  | off, k + 1 => m.read off :: Memory.readBytes m (off + 1) k

/-- `MemWrite(space, off, bytes)` (R17). -/
def Memory.writeBytes (m : Memory) : (off : Nat) → List Byte → Memory
  | _, [] => m
  | off, b :: bs => Memory.writeBytes (m.write off b) (off + 1) bs

/-- The contents of a buffer (R50). -/
def State.buf (s : State) : Space → Memory
  | .ivin => s.ivin
  | .keyin => s.keyin
  | .tagin => s.tagin
  | .tag => s.tag
  | .ain => s.ain
  | .din => s.din
  | .dout => s.dout

/-- Replace the contents of a buffer. -/
def State.setBuf (s : State) (sp : Space) (b : Memory) : State :=
  match sp with
  | .ivin => { s with ivin := b }
  | .keyin => { s with keyin := b }
  | .tagin => { s with tagin := b }
  | .tag => { s with tag := b }
  | .ain => { s with ain := b }
  | .din => { s with din := b }
  | .dout => { s with dout := b }

/-- The size of a buffer in bytes (R50). -/
def Space.size (c : Config) : Space → Nat
  | .ivin => 16
  | .keyin => 32
  | .tagin => 16
  | .tag => 16
  | .ain => c.bufBytes
  | .din => c.bufBytes
  | .dout => c.bufBytes

/-- `MemWrite(DOUT, 0, b)`. -/
def State.writeDout (s : State) (b : List Byte) : State := { s with dout := s.dout.writeBytes 0 b }

/-- `MemWrite(TAG, 0, b)`. -/
def State.writeTag (s : State) (b : List Byte) : State := { s with tag := s.tag.writeBytes 0 b }

/-! ### Key slots and the session -/

/-- `K[s]` (R24). -/
def State.slot (s : State) : SlotId → Slot
  | .slot0 => s.k0
  | .slot1 => s.k1

/-- `K[s] <- sl`. -/
def State.setSlot (s : State) (k : SlotId) (sl : Slot) : State :=
  match k with
  | .slot0 => { s with k0 := sl }
  | .slot1 => { s with k1 := sl }

/-- `M <- m`. -/
def State.setSession (s : State) (m : Session) : State := { s with m := m }

/-- `K[s].bs` in bytes (R25). -/
def Slot.bs (sl : Slot) : Nat := if sl.bs16 then 16 else 8

/-- A slot with a key installed: `Install(s, k)` ends any stream and keeps `bs16` (R91). -/
def Slot.install (sl : Slot) (key : Key) : Slot :=
  { Slot.zeroized with st := .keyed, bs16 := sl.bs16, key := key }

/-- `Install(s, key)` (R91). -/
def State.install (s : State) (k : SlotId) (key : Key) : State :=
  s.setSlot k ((s.slot k).install key)

/-! ### The block cipher of a slot -/

/-- `Enc(bs, key, x)` (R10); an 8-byte block lies in the low 64 bits. -/
def blockEnc (c : Config) (bs16 : Bool) (key : Key) (x : Block) : Block :=
  if bs16 then c.cipherB key x else (c.cipherA key (x.setWidth 64)).setWidth 128

/-- `Dec(bs, key, y)` (R10). -/
def blockDec (c : Config) (bs16 : Bool) (key : Key) (y : Block) : Block :=
  if bs16 then (c.cipherB key).symm y else ((c.cipherA key).symm (y.setWidth 64)).setWidth 128

/-! ### The outcome of a command -/

/-- `raise E`: `ERR <- code(E)`, `VERDICT <- 0`, and nothing else changes (R172). It is the whole exception entry: no
vector, nothing saved, no mode change, no handler (R176). -/
def State.raise (s : State) (e : ErrCode) : State := { s with err := e, verdict := false }

/-- The end of a command that ran: `ERR <- 0`; every command but `MGMDECALL` also writes `VERDICT <- 0` (R23, R60). -/
def State.finish (s : State) : State := { s with err := .ok, verdict := false }

/-- The end of an `MGMDECALL` whose tag matched: `ERR = 0` and `VERDICT <- 1` (R23, R162). -/
def State.finishVerified (s : State) : State := { s with err := .ok, verdict := true }

/-- A draw of `RNG` was made (R14): the next one is another. -/
def State.drawn (s : State) : State := { s with draws := s.draws + 1 }

/-- The first failing check of a list, in its order; a check is its failing condition and the error it raises
(R18, R173). -/
def firstFailing : List (Bool × ErrCode) → Option ErrCode
  | [] => none
  | (failed, e) :: rest => if failed then some e else firstFailing rest

/-- The command step after decoding (R60): the checks in order, `raise` of the first that fails with no part of the
Effect, else the whole Effect and then `ERR <- 0`. -/
def State.command (s : State) (checks : List (Bool × ErrCode)) (effect : State → State) :
    Host.Outcome State Fault Refusal :=
  match firstFailing checks with
  | some e => .next (s.raise e)
  | none => .next (effect s).finish

end Sys2Proof.Machine
end

