-- ==== Sys2Proof/Machine/Operands.lean ====
section
/-! DEFINITION. The operand forms of the commands: the valid bytes of the input buffers (spec/20_memory.md R50), the
keys the session names (spec/42_mgm_streaming.md, R30), and the checks on a slot and on the length registers that
several commands make (R110, R132). -/

namespace Sys2Proof.Machine

open Sys2Proof

/-- The data chunk `MemRead(DIN, 0, DLEN)` (R50). -/
def State.dataBytes (s : State) : List Byte := s.din.readBytes 0 s.dlen.toNat

/-- The associated-data chunk, or the password of `KSETPWD`, `MemRead(AIN, 0, ALEN)` (R50, R95). -/
def State.adBytes (s : State) : List Byte := s.ain.readBytes 0 s.alen.toNat

/-- `MemRead(IVIN, 0, k)` (R113, R135). -/
def State.ivBytes (s : State) (k : Nat) : List Byte := s.ivin.readBytes 0 k

/-- `MemRead(KEYIN, 0, 32)` as a key (R93). -/
def State.keyBytesIn (s : State) : Key := Vector.ofFn fun i => s.keyin.read i.val

/-- `K[s].st = EMPTY` (R93 to R95). -/
def State.slotEmpty (s : State) (k : SlotId) : Bool := (s.slot k).st == .empty

/-- `K[s].st != KEYED` (R96, R110). -/
def State.notKeyed (s : State) (k : SlotId) : Bool := (s.slot k).st != .keyed

/-- `DLEN > BUF_BYTES` (R110). -/
def State.dataTooBig (s : State) (c : Config) : Bool := decide (c.bufBytes < s.dlen.toNat)

/-- `ALEN > BUF_BYTES` (R136). -/
def State.adTooBig (s : State) (c : Config) : Bool := decide (c.bufBytes < s.alen.toNat)

/-- `MgmKeyOk(s)`: the slot is KEYED with `bs = 16` (R132). -/
def State.mgmKeyOk (s : State) (k : SlotId) : Bool := (s.slot k).st == .keyed && (s.slot k).bs16

/-- `EK`, the key of slot `M.ek` at the time of the command (R30, R133). -/
def State.encKey (s : State) : Key := (s.slot s.m.ek).key

/-- `AKEY`, the key of slot `M.ak` at the time of the command (R30, R133). -/
def State.authKey (s : State) : Key := (s.slot s.m.ak).key

/-- The IV of an MGM session as latched: `MemRead(IVIN, 0, IVLEN) || zero(16 - IVLEN)` (R34, R135). -/
def State.latchedIv (s : State) : Vector Byte 16 :=
  Vector.ofFn fun i => if i.val < s.ivlen.toNat then s.ivin.read i.val else 0

/-- `M.iv[0 .. M.ivlen-1]` (R34, R137). -/
def Session.ivBytes (m : Session) : List Byte := m.iv.toList.take m.ivlen.toNat

/-- A tag length outside `TAG_MIN_BYTES .. TAG_MAX_BYTES` (R142, R160). -/
def badTagLength (taglen : Nat) : Bool := decide (taglen < tagMinBytes) || decide (tagMaxBytes < taglen)

end Sys2Proof.Machine
end

