-- ==== Sys2Proof/Machine/Flags.lean ====
section
/-! DEFINITION. The flags of the engine: the numbers of the error codes and state fields, the `STATUS` word assembled
from them (spec/10_state.md R23, spec/60_exceptions.md R170), the closing of a phase or stream by a partial block
(R33, R114), and the tag comparison (spec/43_mgm_combined.md R163). There are no arithmetic condition codes (R35). -/

namespace Sys2Proof.Machine

open Sys2Proof

/-- The number of an error code (R170). -/
def ErrCode.code : ErrCode → Word
  | .ok => 0
  | .invalidParameter => 1
  | .invalidKeyLength => 2
  | .scheduleFailure => 3
  | .invalidIVLength => 4
  | .phaseViolation => 5
  | .dataTooLong => 6
  | .authenticationFailed => 7
  | .allocationFailure => 8
  | .invalidLength => 9
  | .randomSourceExhausted => 10
  | .kdfFailure => 11

/-- The coding of `M.phase` (R31). -/
def Phase.code : Phase → Word
  | .clean => 0
  | .auth => 1
  | .enc => 2
  | .finalized => 3

/-- The coding of `K[s].st` (R25). -/
def SlotState.code : SlotState → Word
  | .empty => 0
  | .created => 1
  | .keyed => 2

/-- A one-bit field of `STATUS`. -/
def flagBit (b : Bool) : Word := if b then 1 else 0

/-- The word `RD STATUS` returns, assembled from the state at that moment (R23, R59); bits 15:13 and 31:22 are 0. -/
def State.statusWord (s : State) : Word :=
  s.err.code
    ||| s.m.phase.code <<< 8
    ||| flagBit s.m.aclosed <<< 10
    ||| flagBit s.m.eclosed <<< 11
    ||| flagBit s.verdict <<< 12
    ||| s.k0.st.code <<< 16
    ||| s.k1.st.code <<< 18
    ||| flagBit s.k0.bs16 <<< 20
    ||| flagBit s.k1.bs16 <<< 21

/-- A chunk of `len` bytes ends in a partial block of a `bs`-byte cipher (R114, R136, R138). -/
def partialChunk (bs len : Nat) : Bool := len % bs != 0

/-- The slot after a chunk of `len` bytes of its stream: a partial last block closes the stream (R114). -/
def Slot.closeStream (sl : Slot) (len : Nat) : Slot :=
  { sl with live := sl.live && !partialChunk sl.bs len }

/-- Counting `len` bytes into a 64-bit length counter (R136, R138). -/
def countBits (n : DWord) (len : Nat) : DWord := BitVec.ofNat 64 (n.toNat + 8 * len)

/-- Counting `len` bytes would take a length counter above `MAX_BITS` (R141). -/
def tooLong (n : DWord) (len : Nat) : Bool := decide (maxBits < n.toNat + 8 * len)

/-- `TagDiff(t)`: the `or` over `i = 0 .. t-1` of `TAG[i] xor TAGIN[i]`; all `t` bytes are combined (R163). -/
def State.tagDiff (s : State) (t : Nat) : Byte :=
  (List.range t).foldl (fun acc i => acc ||| (s.tag.read i ^^^ s.tagin.read i)) 0

end Sys2Proof.Machine
end

