-- ==== Sys2Proof/Machine/HostPort.lean ====
section
/-! DEFINITION. The host port (spec/20_memory.md R50 to R67): the numbers of registers and buffers, which transactions
belong to the interface, and what each does but the command step. There is no instruction fetch: the command word is
taken from the `WR CMD` transaction itself (R64). -/

namespace Sys2Proof.Machine

open Sys2Proof

/-- The scalar register a number names (R52). -/
def Reg.ofNumber : Nat → Option Reg
  | 0x00 => some .cmd
  | 0x01 => some .status
  | 0x02 => some .alen
  | 0x03 => some .dlen
  | 0x04 => some .klen
  | 0x05 => some .ivlen
  | 0x06 => some .secsz
  | 0x08 => some .abits
  | 0x09 => some .pbits
  | _ => none

/-- The buffer a number names (R52). -/
def Space.ofNumber : Nat → Option Space
  | 0x10 => some .ivin
  | 0x11 => some .keyin
  | 0x12 => some .tagin
  | 0x13 => some .tag
  | 0x14 => some .ain
  | 0x15 => some .din
  | 0x16 => some .dout
  | _ => none

/-- The number of a scalar register (R52). -/
def Reg.number : Reg → Nat
  | .cmd => 0x00
  | .status => 0x01
  | .alen => 0x02
  | .dlen => 0x03
  | .klen => 0x04
  | .ivlen => 0x05
  | .secsz => 0x06
  | .abits => 0x08
  | .pbits => 0x09

/-- The number of a buffer (R52). -/
def Space.number : Space → Nat
  | .ivin => 0x10
  | .keyin => 0x11
  | .tagin => 0x12
  | .tag => 0x13
  | .ain => 0x14
  | .din => 0x15
  | .dout => 0x16

/-- The width of a scalar register in bits (R52). -/
def Reg.width : Reg → Nat
  | .cmd => 32
  | .status => 32
  | .alen => 32
  | .dlen => 32
  | .klen => 32
  | .ivlen => 32
  | .secsz => 32
  | .abits => 64
  | .pbits => 64

/-- `WR` with its register resolved: a value wider than the register is no transaction (R58). -/
def writeRequest (reg : Nat) (v : DWord) : Except Refusal Request :=
  match Reg.ofNumber reg with
  | none => .error (.noSuchRegister reg)
  | some r =>
    if 2 ^ r.width ≤ v.toNat then .error (.valueTooWide reg)
    else if r = .cmd then .ok (.command (v.setWidth 32))
    else .ok (.writeReg r v)

/-- Whether `k` bytes at `off` are an access of a buffer of `size` bytes: `1 <= k` and `off + k <= size`
(R55, R65). -/
def accessRefused (size off k : Nat) : Option Refusal :=
  if k = 0 then some .emptyAccess
  else if size < off + k then some .outsideBuffer
  else none

/-- `WRB` or `RDB` with its buffer resolved and its range checked (R55, R65). -/
def spaceRequest (c : Config) (space off k : Nat) (request : Space → Request) : Except Refusal Request :=
  match Space.ofNumber space with
  | none => .error (.noSuchBuffer space)
  | some sp =>
    match accessRefused (sp.size c) off k with
    | some r => .error r
    | none => .ok (request sp)

/-- The transaction as a request of the interface, or the reason it is none (R57, R58, R65). -/
def request (c : Config) : Transaction → Except Refusal Request
  | .wr reg v => writeRequest reg v
  | .rd reg =>
    match Reg.ofNumber reg with
    | none => .error (.noSuchRegister reg)
    | some r => .ok (.readReg r)
  | .wrb space off b => spaceRequest c space off b.length fun sp => .writeSpace sp off b
  | .rdb space off k => spaceRequest c space off k fun sp => .readSpace sp off k
  | .reset => .ok .reset

/-- The next transaction is taken from the host and has not answered yet. -/
def State.accept (s : State) (rest : List Transaction) : State := { s with pending := rest, reply := none }

/-- `WR` of a register other than `CMD`: the operand registers take the value, the read-only ones ignore it
(R51, R57). The command step of `CMD` is `Step.lean`'s. -/
def State.writeReg (s : State) (r : Reg) (v : DWord) : State :=
  match r with
  | .cmd => s
  | .status => s
  | .alen => { s with alen := v.setWidth 32 }
  | .dlen => { s with dlen := v.setWidth 32 }
  | .klen => { s with klen := v.setWidth 32 }
  | .ivlen => { s with ivlen := v.setWidth 32 }
  | .secsz => { s with secsz := v.setWidth 32 }
  | .abits => s
  | .pbits => s

/-- What `RD` returns (R51, R57, R59). -/
def State.readReg (s : State) : Reg → Reply
  | .cmd => .word 0
  | .status => .word s.statusWord
  | .alen => .word s.alen
  | .dlen => .word s.dlen
  | .klen => .word s.klen
  | .ivlen => .word s.ivlen
  | .secsz => .word s.secsz
  | .abits => .dword s.m.abits
  | .pbits => .dword s.m.pbits

/-- Whether the host may write a buffer (R51). -/
def Space.hostWritable : Space → Bool
  | .ivin => true
  | .keyin => true
  | .tagin => true
  | .tag => false
  | .ain => true
  | .din => true
  | .dout => false

/-- `WRB`: a write to a read-only buffer completes and changes nothing (R51, R57). -/
def State.writeSpace (s : State) (sp : Space) (off : Nat) (b : List Byte) : State :=
  if sp.hostWritable then s.setBuf sp ((s.buf sp).writeBytes off b) else s

/-- What `RDB` returns: `KEYIN` reads as zero bytes (R51, R57). -/
def State.readSpace (s : State) (sp : Space) (off k : Nat) : Reply :=
  if sp = .keyin then .bytes (zeros k) else .bytes ((s.buf sp).readBytes off k)

/-- The reset input (R190): every element of the engine has its reset value. What is outside the engine stays: the
host's further transactions, and the draws already made from the random source. -/
def State.resetInput (s : State) : State := { State.reset with pending := s.pending, draws := s.draws }

/-- The effect of a request other than a command (R57). -/
def State.serve (s : State) : Request → State
  | .command _ => s
  | .writeReg r v => s.writeReg r v
  | .readReg r => { s with reply := some (s.readReg r) }
  | .writeSpace sp off b => s.writeSpace sp off b
  | .readSpace sp off k => { s with reply := some (s.readSpace sp off k) }
  | .reset => s.resetInput

/-- The transaction `WR CMD, w` with which the host issues a command word (R22). -/
def commandWrite (w : Nat) : Transaction := .wr Reg.cmd.number (BitVec.ofNat 64 w)

end Sys2Proof.Machine
end

