-- ==== Sys2Proof/Machine/Command.lean ====
section
/-! DEFINITION. The shape of a step of the whole system over any meaning of the commands: the host's next transaction
takes effect (spec/20_memory.md R57, R60, R61). -/

namespace Sys2Proof.Machine

open Sys2Proof

/-- The command step `WR CMD, w` (R60): decode and run the command; an illegal word is a command that fails with
`InvalidParameter` (R75). -/
def runWord (run : Instr → State → Host.Outcome State Fault Refusal) (w : Word) (s : State) :
    Host.Outcome State Fault Refusal :=
  match decode w with
  | some i => run i s
  | none => .next (s.raise .invalidParameter)

/-- One transaction of the host. With none to take the engine waits and nothing changes (R56, R190); a transaction
outside the interface has no step (R65). -/
def transact (c : Config) (run : Instr → State → Host.Outcome State Fault Refusal) (s : State) :
    Host.Outcome State Fault Refusal :=
  match s.pending with
  | [] => .next s
  | t :: rest =>
    match request c t with
    | .error r => .refused r
    | .ok (.command w) => runWord run w (s.accept rest)
    | .ok q => .next ((s.accept rest).serve q)

end Sys2Proof.Machine
end

