-- ==== Sys2Proof/Machine/Cipher.lean ====
section
/-! DEFINITION. The procedures the cipher-mode commands share (spec/41_cipher_modes.md): the independent block
transforms of ECB, the counter stream of CTR and ACPKM with its section bookkeeping, and OMAC. -/

namespace Sys2Proof.Machine

open Sys2Proof

/-- Independent transforms of every block, concatenated (R111, R112). -/
def ecb (f : Block → Block) (bs : Nat) (msg : List Byte) : List Byte :=
  ((blocks bs msg).map fun b => bytesOf bs (f (blockOf b)).toNat).flatten

/-- The initial counter: the `bs/2` bytes of the IV in the high half of the block, zeros below (R113). -/
def ctrSeed (bs : Nat) (iv : List Byte) : Block := BitVec.ofNat 128 (be iv * 2 ^ (4 * bs))

/-- The counter of the next block, `(ctr + 1) mod 2^n` (R113). -/
def ctrNext (bs : Nat) (ctr : Block) : Block := BitVec.ofNat 128 ((ctr.toNat + 1) % 2 ^ (8 * bs))

/-- `Stream(s, usekey)` without the closing (R114): each block is combined with the leading bytes of
`bytes_bs(Enc(bs, usekey(), ctr))` and the counter advances. The answer is the slot after the last block and the
output bytes. -/
def stream (c : Config) (usekey : Slot → Key × Slot) : Slot → List (List Byte) → Slot × List Byte
  | sl, [] => (sl, [])
  | sl, b :: rest =>
    let (key, sl) := usekey sl
    let ks := bytesOf sl.bs (blockEnc c sl.bs16 key sl.ctr).toNat
    let (last, out) := stream c usekey { sl with ctr := ctrNext sl.bs sl.ctr } rest
    (last, xorBytes b ks ++ out)

/-- The `usekey()` of plain CTR: the installed key (R115). -/
def ctrUseKey (sl : Slot) : Key × Slot := (sl.key, sl)

/-- The evolution before the first block of a new section (R117). -/
def Slot.nextSection (c : Config) (sl : Slot) : Slot :=
  if sl.secpos = sl.secsz then { sl with wkey := c.acpkmNext sl.bs16 sl.wkey, secpos := 0 } else sl

/-- The `usekey()` of ACPKM: the working key, evolved lazily, with the block counted into the section (R117). -/
def acpkmUseKey (c : Config) (sl : Slot) : Key × Slot :=
  let sl := sl.nextSection c
  (sl.wkey, { sl with secpos := sl.secpos + BitVec.ofNat 32 sl.bs })

/-- The Effect of a stream command once the slot is opened: run the chunk of `DIN` through the stream, close it after
a partial block, write `DOUT` and the slot (R114). -/
def State.runStream (s : State) (c : Config) (usekey : Slot → Key × Slot) (k : SlotId) (sl : Slot) : State :=
  let (last, out) := stream c usekey sl (blocks sl.bs s.dataBytes)
  (s.setSlot k (last.closeStream s.dlen.toNat)).writeDout out

/-- The constant `B_n` of the doubling (R119). -/
def dblConstant (bs16 : Bool) : Block := if bs16 then 0x87 else 0x1B

/-- `dbl(v)`: the `n`-bit value doubled, reduced by `B_n` when its top bit is set (R119). -/
def dbl (bs16 : Bool) (v : Block) : Block :=
  let n := if bs16 then 128 else 64
  BitVec.ofNat 128 (v.toNat * 2 % 2 ^ n) ^^^ (if v.getLsbD (n - 1) then dblConstant bs16 else 0)

/-- The subkeys `SK1` and `SK2` (R119). -/
def omacSubkeys (bs16 : Bool) (enc : Block → Block) : Block × Block :=
  let sk1 := dbl bs16 (enc 0)
  (sk1, dbl bs16 sk1)

/-- The chaining over all blocks but the last: the chained value and the last block, which is empty for the empty
message (R120). -/
def omacChain (enc : Block → Block) : Block → List (List Byte) → Block × List Byte
  | ch, [] => (ch, [])
  | ch, [last] => (ch, last)
  | ch, b :: next :: rest => omacChain enc (enc (ch ^^^ blockOf b)) (next :: rest)

/-- The last block masked: a complete one with `SK1`, a shorter one padded with `0x80` and zeros with `SK2` (R120). -/
def omacLast (bs : Nat) (subkeys : Block × Block) (last : List Byte) : Block :=
  if last.length = bs then blockOf last ^^^ subkeys.1
  else blockOf (last ++ 0x80 :: zeros (bs - last.length - 1)) ^^^ subkeys.2

/-- The tag of a message as a block value (R120). -/
def omac (bs16 : Bool) (bs : Nat) (enc : Block → Block) (msg : List Byte) : Block :=
  let (ch, last) := omacChain enc 0 (blocks bs msg)
  enc (ch ^^^ omacLast bs (omacSubkeys bs16 enc) last)

end Sys2Proof.Machine
end

