-- ==== Sys2Proof/Machine/CipherModes.lean ====
section
/-! DEFINITION. The cipher-mode commands (spec/41_cipher_modes.md R110 to R120), opcodes 0x10 to 0x14. They use the
key of one slot and never touch the MGM session (R110). -/

namespace Sys2Proof.Machine

open Sys2Proof

/-- The ECB commands over a block transform (R111, R112). -/
def State.ecbCommand (s : State) (c : Config) (k : SlotId) (f : Bool → Key → Block → Block) :
    Host.Outcome State Fault Refusal :=
  s.command
    [(s.notKeyed k, .invalidParameter),
     (s.dataTooBig c, .invalidParameter),
     (partialChunk (s.slot k).bs s.dlen.toNat, .invalidLength)]
    fun s =>
      let sl := s.slot k
      s.writeDout (ecb (f sl.bs16 sl.key) sl.bs s.dataBytes)

/-- `ECBENC s` (R111). -/
def ecbencWith (c : Config) (k : SlotId) (s : State) : Host.Outcome State Fault Refusal :=
  s.ecbCommand c k (blockEnc c)

/-- `ECBENC s` (R111). -/
def execEcbenc (k : SlotId) (s : State) : Host.Outcome State Fault Refusal :=
  ecbencWith Config.machine k s

/-- `ECBDEC s` (R112). -/
def ecbdecWith (c : Config) (k : SlotId) (s : State) : Host.Outcome State Fault Refusal :=
  s.ecbCommand c k (blockDec c)

/-- `ECBDEC s` (R112). -/
def execEcbdec (k : SlotId) (s : State) : Host.Outcome State Fault Refusal :=
  ecbdecWith Config.machine k s

/-- No open stream of this kind to continue (R115, R116). -/
def Slot.noStream (sl : Slot) (kind : StreamKind) : Bool := !sl.live || sl.kind != kind

/-- The slot with a plain CTR stream opened at the IV; the ACPKM bookkeeping is not written (R115). -/
def Slot.openCtr (sl : Slot) (iv : List Byte) : Slot :=
  { sl with ctr := ctrSeed sl.bs iv, live := true, kind := .ctr }

/-- `CTR s, first` (R115). -/
def ctrWith (c : Config) (k : SlotId) (first : Bool) (s : State) : Host.Outcome State Fault Refusal :=
  s.command
    [(!first && (s.slot k).noStream .ctr, .phaseViolation),
     (s.notKeyed k, .invalidParameter),
     (s.dataTooBig c, .invalidParameter),
     (first && s.ivlen.toNat != (s.slot k).bs / 2, .invalidIVLength)]
    fun s =>
      let sl := s.slot k
      s.runStream c ctrUseKey k (if first then sl.openCtr (s.ivBytes (sl.bs / 2)) else sl)

/-- `CTR s, first` (R115). -/
def execCtr (k : SlotId) (first : Bool) (s : State) : Host.Outcome State Fault Refusal :=
  ctrWith Config.machine k first s

/-- The slot with an ACPKM stream opened at the IV: the working key is the installed key and the section size is
latched (R116). -/
def Slot.openAcpkm (sl : Slot) (iv : List Byte) (secsz : Word) : Slot :=
  { sl with
    ctr := ctrSeed sl.bs iv, live := true, kind := .acpkm, wkey := sl.key, secsz := secsz, secpos := 0 }

/-- A section size that is 0 or no multiple of the block size (R116). -/
def badSection (bs : Nat) (secsz : Word) : Bool := secsz.toNat == 0 || partialChunk bs secsz.toNat

/-- `ACPKM s, first` (R116). -/
def acpkmWith (c : Config) (k : SlotId) (first : Bool) (s : State) : Host.Outcome State Fault Refusal :=
  s.command
    [(!first && (s.slot k).noStream .acpkm, .phaseViolation),
     (s.notKeyed k, .invalidParameter),
     (s.dataTooBig c, .invalidParameter),
     (first && badSection (s.slot k).bs s.secsz, .invalidParameter),
     (first && s.ivlen.toNat != (s.slot k).bs / 2, .invalidIVLength)]
    fun s =>
      let sl := s.slot k
      s.runStream c (acpkmUseKey c) k
        (if first then sl.openAcpkm (s.ivBytes (sl.bs / 2)) s.secsz else sl)

/-- `ACPKM s, first` (R116). -/
def execAcpkm (k : SlotId) (first : Bool) (s : State) : Host.Outcome State Fault Refusal :=
  acpkmWith Config.machine k first s

/-- `OMAC s` (R120): the tag of the whole message in `DIN`, in `TAG[0 .. bs-1]`, the rest of `TAG` zero. -/
def omacWith (c : Config) (k : SlotId) (s : State) : Host.Outcome State Fault Refusal :=
  s.command
    [(s.notKeyed k, .invalidParameter),
     (s.dataTooBig c, .invalidParameter)]
    fun s =>
      let sl := s.slot k
      let t := omac sl.bs16 sl.bs (blockEnc c sl.bs16 sl.key) s.dataBytes
      s.writeTag (bytesOf sl.bs t.toNat ++ zeros (16 - sl.bs))

/-- `OMAC s` (R120). -/
def execOmac (k : SlotId) (s : State) : Host.Outcome State Fault Refusal :=
  omacWith Config.machine k s

end Sys2Proof.Machine
end

