-- ==== Sys2Proof/Machine/KeyObject.lean ====
section
/-! DEFINITION. The key-object commands (spec/40_key_object.md R90 to R99), opcodes 0x01 to 0x07. A meaning that
needs the configuration is written over any configuration (`…With`) and taken at the machine's. -/

namespace Sys2Proof.Machine

open Sys2Proof

/-- `KCREATE s, bs` (R92): the slot is zeroized before it is created, so no key survives. -/
def execKcreate (k : SlotId) (bs : Nat) (s : State) : Host.Outcome State Fault Refusal :=
  s.command [(!(bs == 8 || bs == 16), .invalidParameter)] fun s =>
    s.setSlot k { Slot.zeroized with st := .created, bs16 := bs == 16 }

/-- `KSET s, validate` (R93). -/
def ksetWith (c : Config) (k : SlotId) (validate : Bool) (s : State) : Host.Outcome State Fault Refusal :=
  s.command
    [(s.slotEmpty k, .invalidParameter),
     (s.klen.toNat != keyBytes, .invalidKeyLength),
     (!c.scheduleOk (s.slot k).bs16 s.keyBytesIn validate, .scheduleFailure)]
    fun s => s.install k s.keyBytesIn

/-- `KSET s, validate` (R93). -/
def execKset (k : SlotId) (validate : Bool) (s : State) : Host.Outcome State Fault Refusal :=
  ksetWith Config.machine k validate s

/-- `KSETRND s, validate` (R94): the draw is made only if the slot is not EMPTY. -/
def ksetrndWith (c : Config) (k : SlotId) (validate : Bool) (s : State) : Host.Outcome State Fault Refusal :=
  if s.slotEmpty k then .next (s.raise .invalidParameter)
  else
    match c.rng s.draws keyBytes with
    | none => .next (s.drawn.raise .randomSourceExhausted)
    | some r =>
      s.drawn.command [(!c.scheduleOk (s.slot k).bs16 r validate, .scheduleFailure)] fun s => s.install k r

/-- `KSETRND s, validate` (R94). -/
def execKsetrnd (k : SlotId) (validate : Bool) (s : State) : Host.Outcome State Fault Refusal :=
  ksetrndWith Config.machine k validate s

/-- `KSETPWD s, validate` (R95): the password is in `AIN`, the salt in `DIN`. -/
def ksetpwdWith (c : Config) (k : SlotId) (validate : Bool) (s : State) : Host.Outcome State Fault Refusal :=
  match firstFailing [(s.slotEmpty k, .invalidParameter), (s.adTooBig c || s.dataTooBig c, .invalidParameter)] with
  | some e => .next (s.raise e)
  | none =>
    match c.kdf s.adBytes s.dataBytes keyBytes with
    | none => .next (s.raise .kdfFailure)
    | some d =>
      s.command [(!c.scheduleOk (s.slot k).bs16 d validate, .scheduleFailure)] fun s => s.install k d

/-- `KSETPWD s, validate` (R95). -/
def execKsetpwd (k : SlotId) (validate : Bool) (s : State) : Host.Outcome State Fault Refusal :=
  ksetpwdWith Config.machine k validate s

/-- The single-block transform of `KENC` and `KDEC` (R96, R97). -/
def State.oneBlock (s : State) (k : SlotId) (f : Bool → Key → Block → Block) :
    Host.Outcome State Fault Refusal :=
  s.command
    [(s.notKeyed k, .invalidParameter),
     (s.dlen.toNat != (s.slot k).bs, .invalidLength)]
    fun s =>
      let sl := s.slot k
      s.writeDout (bytesOf sl.bs (f sl.bs16 sl.key (blockOf (s.din.readBytes 0 sl.bs))).toNat)

/-- `KENC s` (R96). -/
def kencWith (c : Config) (k : SlotId) (s : State) : Host.Outcome State Fault Refusal :=
  s.oneBlock k (blockEnc c)

/-- `KENC s` (R96). -/
def execKenc (k : SlotId) (s : State) : Host.Outcome State Fault Refusal :=
  kencWith Config.machine k s

/-- `KDEC s` (R97). -/
def kdecWith (c : Config) (k : SlotId) (s : State) : Host.Outcome State Fault Refusal :=
  s.oneBlock k (blockDec c)

/-- `KDEC s` (R97). -/
def execKdec (k : SlotId) (s : State) : Host.Outcome State Fault Refusal :=
  kdecWith Config.machine k s

/-- `KDESTROY s` (R98): it cannot fail and is idempotent. -/
def execKdestroy (k : SlotId) (s : State) : Host.Outcome State Fault Refusal :=
  s.command [] fun s => s.setSlot k Slot.zeroized

end Sys2Proof.Machine
end

