-- ==== Sys2Proof/Machine/Mgm.lean ====
section
/-! DEFINITION. The procedures of the MGM session (spec/42_mgm_streaming.md R131 to R144) and the Effect of each
streaming command, which the combined commands run in sequence (spec/43_mgm_combined.md R160). -/

namespace Sys2Proof.Machine

open Sys2Proof

/-- `Seed(marker, iv) = marker * 2^127 + be(iv)` (R131). -/
def seed (marker : Nat) (iv : List Byte) : Block := BitVec.ofNat 128 (marker * 2 ^ 127 + be iv)

/-- `Absorb(blk)` under the authentication key `akey` (R134). -/
def Session.absorb (c : Config) (akey : Key) (m : Session) (blk : Block) : Session :=
  { m with sum := m.sum ^^^ c.gfmul (blockEnc c true akey m.z) blk, z := c.incrZ m.z }

/-- Absorb blocks of associated data in order, each zero-padded on the right to 16 bytes (R134, R136). -/
def Session.absorbAll (c : Config) (akey : Key) : Session → List (List Byte) → Session
  | m, [] => m
  | m, b :: rest => Session.absorbAll c akey (m.absorb c akey (blockOf (pad16 b))) rest

/-- The block loop of `Crypt(decrypt)`: the session after the last block and the output bytes. The ciphertext is
absorbed in both directions: the output when encrypting, the input when decrypting (R138). -/
def Session.crypt (c : Config) (ekey akey : Key) (decrypt : Bool) :
    Session → List (List Byte) → Session × List Byte
  | m, [] => (m, [])
  | m, b :: rest =>
    let out := xorBytes b (bytesOf 16 (blockEnc c true ekey m.y).toNat)
    let m := m.absorb c akey (blockOf (pad16 (if decrypt then b else out)))
    let (last, outs) := Session.crypt c ekey akey decrypt { m with y := c.incrY m.y } rest
    (last, out ++ outs)

/-- `LenBlock(a, p) = a * 2^64 + p` (R143). -/
def lenBlock (a p : DWord) : Block := BitVec.ofNat 128 (a.toNat * 2 ^ 64 + p.toNat)

/-- `MSB_taglen(T) || zero(16 - taglen)` (R142, R144). -/
def truncatedTag (taglen : Nat) (t : Block) : List Byte := (bytesOf 16 t.toNat).take taglen ++ zeros (16 - taglen)

/-- The Effect of `MGMACLEAN ek, ak` (R135). -/
def State.authClean (s : State) (c : Config) (ek ak : SlotId) : State :=
  let session : Session :=
    { phase := .auth
      sum := 0
      y := 0
      z := blockEnc c true (s.slot ak).key (seed 1 (s.ivBytes s.ivlen.toNat))
      abits := 0
      pbits := 0
      aclosed := false
      eclosed := false
      iv := s.latchedIv
      ivlen := s.ivlen.setWidth 5
      ek := ek
      ak := ak }
  (s.setSession session).writeTag (zeros 16)

/-- The Effect of `MGMAUPD` (R136). -/
def State.authUpdate (s : State) (c : Config) : State :=
  let m := s.m.absorbAll c s.authKey (blocks 16 s.adBytes)
  s.setSession
    { m with
      abits := countBits m.abits s.alen.toNat
      aclosed := m.aclosed || partialChunk 16 s.alen.toNat }

/-- The Effect of `MGMECLEAN` (R137). -/
def State.encClean (s : State) (c : Config) : State :=
  s.setSession
    { s.m with
      y := blockEnc c true s.encKey (seed 0 s.m.ivBytes)
      pbits := 0
      eclosed := false
      phase := .enc }

/-- The Effect of `Crypt(decrypt)` (R138). -/
def State.crypt (s : State) (c : Config) (decrypt : Bool) : State :=
  let (m, out) := s.m.crypt c s.encKey s.authKey decrypt (blocks 16 s.dataBytes)
  let session :=
    { m with
      pbits := countBits m.pbits s.dlen.toNat
      eclosed := m.eclosed || partialChunk 16 s.dlen.toNat }
  (s.setSession session).writeDout out

/-- The Effect of `MGMFIN taglen` (R142). `M.z` is not advanced by the length block. -/
def State.authFinish (s : State) (c : Config) (taglen : Nat) : State :=
  let h := blockEnc c true s.authKey s.m.z
  let sum := s.m.sum ^^^ c.gfmul h (lenBlock s.m.abits s.m.pbits)
  (s.setSession { s.m with sum := sum, phase := .finalized }).writeTag
    (truncatedTag taglen (blockEnc c true s.authKey sum))

/-- The checks of `Crypt` (R138). -/
def State.cryptChecks (s : State) (c : Config) : List (Bool × ErrCode) :=
  [(s.m.phase != .enc || s.m.eclosed, .phaseViolation),
   (s.dataTooBig c, .invalidParameter),
   (!s.mgmKeyOk s.m.ek || !s.mgmKeyOk s.m.ak, .invalidParameter),
   (tooLong s.m.pbits s.dlen.toNat, .dataTooLong)]

/-- The Effect of `Pipeline(ek, ak, taglen, decrypt)`: the five Effects in order (R160). -/
def State.pipeline (s : State) (c : Config) (ek ak : SlotId) (taglen : Nat) (decrypt : Bool) : State :=
  ((((s.authClean c ek ak).authUpdate c).encClean c).crypt c decrypt).authFinish c taglen

/-- The checks of `Pipeline`, all made before any state changes (R160). -/
def State.pipelineChecks (s : State) (c : Config) (ek ak : SlotId) (taglen : Nat) : List (Bool × ErrCode) :=
  [(!s.mgmKeyOk ek || !s.mgmKeyOk ak, .invalidParameter),
   (badTagLength taglen, .invalidParameter),
   (s.adTooBig c || s.dataTooBig c, .invalidParameter),
   (decide (16 ≤ s.ivlen.toNat), .invalidIVLength)]

end Sys2Proof.Machine
end

