-- ==== Sys2Proof/Machine/MgmCombined.lean ====
section
/-! DEFINITION. The MGM combined commands (spec/43_mgm_combined.md R160 to R164), opcodes 0x28 and 0x29: a whole
session in one command. Every phase accepts them. -/

namespace Sys2Proof.Machine

open Sys2Proof

/-- `MGMENCALL ek, ak, taglen` (R161). -/
def mgmencallWith (c : Config) (ek ak : SlotId) (taglen : Nat) (s : State) : Host.Outcome State Fault Refusal :=
  s.command (s.pipelineChecks c ek ak taglen) fun s => s.pipeline c ek ak taglen false

/-- `MGMENCALL ek, ak, taglen` (R161). -/
def execMgmencall (ek ak : SlotId) (taglen : Nat) (s : State) : Host.Outcome State Fault Refusal :=
  mgmencallWith Config.machine ek ak taglen s

/-- What an authentication failure leaves: the session as the pipeline ended it, `DOUT[0 .. DLEN-1]` and `TAG`
overwritten with zeros (R162, R172). -/
def State.withholdOutput (s : State) : State := (s.writeDout (zeros s.dlen.toNat)).writeTag (zeros 16)

/-- `MGMDECALL ek, ak, taglen` (R162): the one command whose last check comes after its Effect. -/
def mgmdecallWith (c : Config) (ek ak : SlotId) (taglen : Nat) (s : State) : Host.Outcome State Fault Refusal :=
  match firstFailing (s.pipelineChecks c ek ak taglen) with
  | some e => .next (s.raise e)
  | none =>
    let t := s.pipeline c ek ak taglen true
    if t.tagDiff taglen = 0 then .next t.finishVerified
    else .next (t.withholdOutput.raise .authenticationFailed)

/-- `MGMDECALL ek, ak, taglen` (R162). -/
def execMgmdecall (ek ak : SlotId) (taglen : Nat) (s : State) : Host.Outcome State Fault Refusal :=
  mgmdecallWith Config.machine ek ak taglen s

end Sys2Proof.Machine
end

