-- ==== Sys2Proof/Machine/MgmStreaming.lean ====
section
/-! DEFINITION. The MGM streaming commands (spec/42_mgm_streaming.md R130 to R145), opcodes 0x20 to 0x25.
`PhaseViolation` is the first check of every one but `MGMACLEAN`, which every phase accepts (R130). -/

namespace Sys2Proof.Machine

open Sys2Proof

/-- `MGMACLEAN ek, ak` (R135). -/
def mgmacleanWith (c : Config) (ek ak : SlotId) (s : State) : Host.Outcome State Fault Refusal :=
  s.command
    [(!s.mgmKeyOk ek || !s.mgmKeyOk ak, .invalidParameter),
     (decide (16 ≤ s.ivlen.toNat), .invalidIVLength)]
    fun s => s.authClean c ek ak

/-- `MGMACLEAN ek, ak` (R135). -/
def execMgmaclean (ek ak : SlotId) (s : State) : Host.Outcome State Fault Refusal :=
  mgmacleanWith Config.machine ek ak s

/-- `MGMAUPD` (R136). -/
def mgmaupdWith (c : Config) (s : State) : Host.Outcome State Fault Refusal :=
  s.command
    [(s.m.phase != .auth || s.m.aclosed, .phaseViolation),
     (s.adTooBig c, .invalidParameter),
     (!s.mgmKeyOk s.m.ak, .invalidParameter),
     (tooLong s.m.abits s.alen.toNat, .dataTooLong)]
    fun s => s.authUpdate c

/-- `MGMAUPD` (R136). -/
def execMgmaupd (s : State) : Host.Outcome State Fault Refusal :=
  mgmaupdWith Config.machine s

/-- `MGMECLEAN` (R137). -/
def mgmecleanWith (c : Config) (s : State) : Host.Outcome State Fault Refusal :=
  s.command
    [(s.m.phase != .auth, .phaseViolation),
     (!s.mgmKeyOk s.m.ek, .invalidParameter)]
    fun s => s.encClean c

/-- `MGMECLEAN` (R137). -/
def execMgmeclean (s : State) : Host.Outcome State Fault Refusal :=
  mgmecleanWith Config.machine s

/-- `MGMENC` (R139): `Crypt(decrypt = false)`. -/
def mgmencWith (c : Config) (s : State) : Host.Outcome State Fault Refusal :=
  s.command (s.cryptChecks c) fun s => s.crypt c false

/-- `MGMENC` (R139). -/
def execMgmenc (s : State) : Host.Outcome State Fault Refusal :=
  mgmencWith Config.machine s

/-- `MGMDEC` (R140): `Crypt(decrypt = true)`. -/
def mgmdecWith (c : Config) (s : State) : Host.Outcome State Fault Refusal :=
  s.command (s.cryptChecks c) fun s => s.crypt c true

/-- `MGMDEC` (R140). -/
def execMgmdec (s : State) : Host.Outcome State Fault Refusal :=
  mgmdecWith Config.machine s

/-- `MGMFIN taglen` (R142). -/
def mgmfinWith (c : Config) (taglen : Nat) (s : State) : Host.Outcome State Fault Refusal :=
  s.command
    [(s.m.phase != .auth && s.m.phase != .enc, .phaseViolation),
     (badTagLength taglen, .invalidParameter),
     (!s.mgmKeyOk s.m.ak, .invalidParameter)]
    fun s => s.authFinish c taglen

/-- `MGMFIN taglen` (R142). -/
def execMgmfin (taglen : Nat) (s : State) : Host.Outcome State Fault Refusal :=
  mgmfinWith Config.machine taglen s

end Sys2Proof.Machine
end

