-- ==== Sys2Proof/Machine/Dispatch.lean ====
section
/-! DEFINITION. One arm per command (spec/30_encoding.md R73): each calls its meaning. -/

namespace Sys2Proof.Machine

open Sys2Proof

def exec (i : Instr) (s : State) : Host.Outcome State Fault Refusal :=
  match i with
  | .kcreate k bs => Sys2Proof.Machine.execKcreate k bs s
  | .kset k validate => Sys2Proof.Machine.execKset k validate s
  | .ksetrnd k validate => Sys2Proof.Machine.execKsetrnd k validate s
  | .ksetpwd k validate => Sys2Proof.Machine.execKsetpwd k validate s
  | .kenc k => Sys2Proof.Machine.execKenc k s
  | .kdec k => Sys2Proof.Machine.execKdec k s
  | .kdestroy k => Sys2Proof.Machine.execKdestroy k s
  | .ecbenc k => Sys2Proof.Machine.execEcbenc k s
  | .ecbdec k => Sys2Proof.Machine.execEcbdec k s
  | .ctr k first => Sys2Proof.Machine.execCtr k first s
  | .acpkm k first => Sys2Proof.Machine.execAcpkm k first s
  | .omac k => Sys2Proof.Machine.execOmac k s
  | .mgmaclean ek ak => Sys2Proof.Machine.execMgmaclean ek ak s
  | .mgmaupd => Sys2Proof.Machine.execMgmaupd s
  | .mgmeclean => Sys2Proof.Machine.execMgmeclean s
  | .mgmenc => Sys2Proof.Machine.execMgmenc s
  | .mgmdec => Sys2Proof.Machine.execMgmdec s
  | .mgmfin taglen => Sys2Proof.Machine.execMgmfin taglen s
  | .mgmencall ek ak taglen => Sys2Proof.Machine.execMgmencall ek ak taglen s
  | .mgmdecall ek ak taglen => Sys2Proof.Machine.execMgmdecall ek ak taglen s

end Sys2Proof.Machine
end

