-- ==== Sys2Proof/Machine/Step.lean ====
section
/-! DEFINITION. One step of the machine (spec/20_memory.md R57, R60, R61). -/

namespace Sys2Proof.Machine

open Sys2Proof

/-- One transaction of the host, the commands run by `exec`. -/
def step (s : State) : Host.Outcome State Fault Refusal := transact Config.machine exec s

/-- The state whose next step runs the command of the word `w`: the host's next transaction is `WR CMD, w`. -/
def State.withFetchWord (s : State) (nbits w : Nat) : State :=
  { s with pending := commandWrite (w % 2 ^ nbits) :: s.pending }

end Sys2Proof.Machine
end

