-- ==== Sys2Proof/Machine/AnyConfig.lean ====
section
/-! DEFINITION. The engine over any configuration (spec/10_state.md R20: the configuration is a parameter of the step
relation). `exec` and `step` are these at `Config.machine` (Laws/AnyConfig.lean); a claim or a test that fixes a
configuration, as R206 asks, is stated of these. -/

namespace Sys2Proof.Machine

open Sys2Proof

/-- The meaning of a command under the configuration `c`. -/
def execWith (c : Config) (i : Instr) (s : State) : Host.Outcome State Fault Refusal :=
  match i with
  | .kcreate k bs => execKcreate k bs s
  | .kset k validate => ksetWith c k validate s
  | .ksetrnd k validate => ksetrndWith c k validate s
  | .ksetpwd k validate => ksetpwdWith c k validate s
  | .kenc k => kencWith c k s
  | .kdec k => kdecWith c k s
  | .kdestroy k => execKdestroy k s
  | .ecbenc k => ecbencWith c k s
  | .ecbdec k => ecbdecWith c k s
  | .ctr k first => ctrWith c k first s
  | .acpkm k first => acpkmWith c k first s
  | .omac k => omacWith c k s
  | .mgmaclean ek ak => mgmacleanWith c ek ak s
  | .mgmaupd => mgmaupdWith c s
  | .mgmeclean => mgmecleanWith c s
  | .mgmenc => mgmencWith c s
  | .mgmdec => mgmdecWith c s
  | .mgmfin taglen => mgmfinWith c taglen s
  | .mgmencall ek ak taglen => mgmencallWith c ek ak taglen s
  | .mgmdecall ek ak taglen => mgmdecallWith c ek ak taglen s

/-- One transaction of the host under the configuration `c`. -/
def stepWith (c : Config) (s : State) : Host.Outcome State Fault Refusal := transact c (execWith c) s

end Sys2Proof.Machine
end

