-- ==== Sys2Proof/Machine/Assembler.lean ====
section
/-! DEFINITION. The textual statements of spec/30_encoding.md R82 and R83 as the host transactions they stand for. -/

namespace Sys2Proof.Machine

open Sys2Proof

/-- A command statement is `WR CMD` of its word (R82). -/
def assemble (i : Instr) : Transaction := commandWrite (encode i).toNat

/-- `WR reg, v` of a named register (R82). -/
def wrReg (r : Reg) (v : Nat) : Transaction := .wr r.number (BitVec.ofNat 64 v)

/-- `LOADKEY s, bs, hex"k"` (R83). -/
def loadKey (k : SlotId) (bs : Nat) (key : List Byte) : List Transaction :=
  [assemble (.kcreate k bs), .wrb Space.keyin.number 0 key, wrReg .klen key.length, assemble (.kset k false)]

/-- `SETIV hex"v"` (R83). -/
def setIv (v : List Byte) : List Transaction := [.wrb Space.ivin.number 0 v, wrReg .ivlen v.length]

/-- `WRB space, 0, b`, omitted when `b` is empty (R83). -/
def fillSpace (sp : Space) (b : List Byte) : List Transaction :=
  if b = [] then [] else [.wrb sp.number 0 b]

/-- `SETA hex"a"` (R83). -/
def setA (a : List Byte) : List Transaction := fillSpace .ain a ++ [wrReg .alen a.length]

/-- `SETD hex"d"` (R83). -/
def setD (d : List Byte) : List Transaction := fillSpace .din d ++ [wrReg .dlen d.length]

/-- `EXPECT e` issues `RD STATUS` (R83). -/
def expect : List Transaction := [.rd Reg.status.number]

end Sys2Proof.Machine
end

