-- ==== Sys2Proof/Machine/Defaults.lean ====
section
/-! DEFINITION. The defaults that the spec gives for configuration functions (spec/00_scope.md R12, R13,
spec/41_cipher_modes.md R118). The machine does not assume them (R206): they are stated here so that a claim can fix
them and so that the vectors of spec/95_test_vectors.md can be computed. -/

namespace Sys2Proof.Machine

open Sys2Proof

/-- The product with `x` in the field of R12: doubled, reduced by `x^128 + x^7 + x^2 + x + 1`. -/
def gfTimesX (a : Block) : Block := (a <<< 1) ^^^ (if a.msb then 0x87 else 0)

/-- The product of `a` with the polynomial whose coefficients are bits `i, i+1, ...` of `b`, `n` of them. -/
def gfmulFrom (b : Block) : (n i : Nat) → (a : Block) → Block
  | 0, _, _ => 0
  | n + 1, i, a => (if b.getLsbD i then a else 0) ^^^ gfmulFrom b n (i + 1) (gfTimesX a)

/-- Default of `GFMUL`: the polynomial product modulo `x^128 + x^7 + x^2 + x + 1`, bit `i` the coefficient of `x^i`
(R12). -/
def gfmulDefault (a b : Block) : Block := gfmulFrom b 128 0 a

/-- Default of `INCR_Z(L || R) = ((L + 1) mod 2^64) || R` (R13). -/
def incrZDefault (v : Block) : Block :=
  BitVec.ofNat 128 ((v.toNat / 2 ^ 64 + 1) % 2 ^ 64 * 2 ^ 64 + v.toNat % 2 ^ 64)

/-- Default of `INCR_Y(L || R) = L || ((R + 1) mod 2^64)` (R13). -/
def incrYDefault (v : Block) : Block :=
  BitVec.ofNat 128 (v.toNat / 2 ^ 64 * 2 ^ 64 + (v.toNat % 2 ^ 64 + 1) % 2 ^ 64)

/-- The 32 constant bytes `0x80, 0x81, ..., 0x9F` of R118. -/
def acpkmConstant : List Byte := (List.range 32).map fun i => BitVec.ofNat 8 (0x80 + i)

/-- Default of `ACPKM_NEXT(bs, key)`: the constant bytes enciphered block by block under the key (R118). -/
def acpkmNextDefault (c : Config) (bs16 : Bool) (key : Key) : Key :=
  let bs := if bs16 then 16 else 8
  let out := ((blocks bs acpkmConstant).map fun b => bytesOf bs (blockEnc c bs16 key (blockOf b)).toNat).flatten
  Vector.ofFn fun i => out.getD i.val 0

/-- The configuration with the ciphers, the collaborators and the buffer size of `c` and the spec's defaults for the
rest. -/
def withDefaults (c : Config) : Config :=
  { c with
    gfmul := gfmulDefault
    incrZ := incrZDefault
    incrY := incrYDefault
    acpkmNext := acpkmNextDefault c }

end Sys2Proof.Machine
end

