-- ==== Sys2Proof/Safety.lean ====
section
/-! DEFINITION. What a good state is (`State.Inv`: what the spec says always holds), and the words the statements use:
the blocks of a chunk, the keys and keystreams by block number, what a session absorbs, what the host can see, and
which error codes a command can end with. Nothing here runs in the machine. -/

namespace Sys2Proof.Machine

open Sys2Proof

/-! ### The invariant -/

/-- What always holds of a key slot (R25 to R29). -/
structure Slot.Inv (sl : Slot) : Prop where
  /-- a slot that is not KEYED holds nothing but its state and, when CREATED, its block size (R25, R26, R28) -/
  unkeyed : sl.st ≠ .keyed → sl = { Slot.zeroized with st := sl.st, bs16 := sl.bs16 }
  /-- an EMPTY slot has `bs16 = 0` (R25) -/
  empty_bs16 : sl.st = .empty → sl.bs16 = false
  /-- the counter has the width of the block (R27) -/
  ctr_width : sl.ctr.toNat < 2 ^ (8 * sl.bs)
  /-- the position lies in the section (R28) -/
  secpos_le : sl.secpos.toNat ≤ sl.secsz.toNat
  /-- the section is a whole number of blocks (R116) -/
  secsz_blocks : sl.secsz.toNat % sl.bs = 0
  /-- the position counts whole blocks (R117) -/
  secpos_blocks : sl.secpos.toNat % sl.bs = 0
  /-- an open ACPKM stream has a section size (R116) -/
  live_acpkm : sl.live = true → sl.kind = .acpkm → 0 < sl.secsz.toNat

/-- What always holds of the session (R31 to R34). -/
structure Session.Inv (m : Session) : Prop where
  /-- in phase CLEAN the session is as reset left it (R31, R38) -/
  clean : m.phase = .clean → m = Session.cleared
  /-- before `MGMECLEAN` there is no encryption counter and no data is counted (R135) -/
  auth : m.phase = .auth → m.y = 0 ∧ m.pbits = 0
  /-- the latched IV length is below the block size (R34) -/
  ivlen_lt : m.ivlen.toNat < 16
  /-- the bytes of the latched IV from its length on are zero (R34) -/
  iv_zero : ∀ i : Fin 16, m.ivlen.toNat ≤ i.val → m.iv[i] = 0
  /-- the counters are multiples of 8 (R33) -/
  abits_bytes : m.abits.toNat % 8 = 0
  /-- the counters are multiples of 8 (R33) -/
  pbits_bytes : m.pbits.toNat % 8 = 0
  /-- the associated-data phase is closed exactly when a partial block was consumed (R33) -/
  aclosed_iff : m.aclosed = true ↔ m.abits.toNat % 128 ≠ 0
  /-- the data phase is closed exactly when a partial block was consumed (R33) -/
  eclosed_iff : m.eclosed = true ↔ m.pbits.toNat % 128 ≠ 0

/-- What always holds of the engine, whatever the host did. -/
structure State.Inv (c : Config) (s : State) : Prop where
  slots : ∀ k, (s.slot k).Inv
  session : s.m.Inv
  /-- every buffer is in canonical form -/
  canonical : ∀ sp, (s.buf sp).wf = true
  /-- no buffer holds a byte outside its size (R50) -/
  inside : ∀ sp : Space, (s.buf sp).within (sp.size c) = true
  /-- the verdict is 1 only after a command that ended with `ERR = 0` and left the session FINALIZED (R23) -/
  verdict : s.verdict = true → s.err = .ok ∧ s.m.phase = .finalized
  /-- `AllocationFailure` is never raised (R179) -/
  err : s.err ≠ .allocationFailure

/-! ### Contents of a buffer -/

/-- The contents are in canonical form and byte `a` reads as `f a`: this fixes them. -/
def Memory.Holds (m : Memory) (f : Nat → Byte) : Prop := m.wf = true ∧ ∀ a, m.read a = f a

/-- Byte `i` of `bytes_k(v)` (R16). -/
def byteOf (k : Nat) (v : Block) (i : Nat) : Byte := (bytesOf k v.toNat).getD i 0

/-- The buffers by number and size (R50, R52), written out. -/
def bufferTable (c : Config) : List (Nat × Space × Nat) :=
  [(0x10, .ivin, 16), (0x11, .keyin, 32), (0x12, .tagin, 16), (0x13, .tag, 16),
   (0x14, .ain, c.bufBytes), (0x15, .din, c.bufBytes), (0x16, .dout, c.bufBytes)]

/-! ### Blocks of a chunk -/

/-- The number of blocks at offsets `0, bs, 2*bs, ... < len` (R114, R136). -/
def numBlocks (bs len : Nat) : Nat := (len + bs - 1) / bs

/-- Block `j` of a chunk of `len` bytes: `MemRead(space, j*bs, min(bs, len - j*bs))` (R114, R136). -/
def chunkBlock (m : Memory) (bs len j : Nat) : List Byte := m.readBytes (j * bs) (min bs (len - j * bs))

/-! ### Slots -/

/-- A slot that has just had `key` installed: `Install` of R91, field by field. -/
def keyedSlot (bs16 : Bool) (key : Key) : Slot where
  st := .keyed
  bs16 := bs16
  key := key
  ctr := 0
  live := false
  kind := .ctr
  wkey := Vector.replicate 32 0
  secsz := 0
  secpos := 0

/-- A slot that has just been created: R92, field by field. -/
def createdSlot (bs16 : Bool) : Slot where
  st := .created
  bs16 := bs16
  key := Vector.replicate 32 0
  ctr := 0
  live := false
  kind := .ctr
  wkey := Vector.replicate 32 0
  secsz := 0
  secpos := 0

/-- The command installed `key` in slot `k` and ended well (R91). -/
def installedState (s : State) (k : SlotId) (key : Key) : State :=
  ({ s with err := .ok, verdict := false } : State).setSlot k (keyedSlot (s.slot k).bs16 key)

/-! ### Streams -/

/-- Byte `i` of the keystream block `bytes_bs(Enc(bs, key, x))` (R114, R138). -/
def keystreamByte (c : Config) (bs16 : Bool) (key : Key) (x : Block) (i : Nat) : Byte :=
  byteOf (if bs16 then 16 else 8) (blockEnc c bs16 key x) i

/-- The initial counter `be(IVIN[0 .. bs/2-1]) * 2^(n/2)` (R113). -/
def ivCounter (s : State) (bs : Nat) : Block :=
  BitVec.ofNat 128 (be (s.ivin.readBytes 0 (bs / 2)) * 2 ^ (8 * bs / 2))

/-- The counter `j` blocks on, modulo `2^n` (R113). -/
def ctrAt (bs : Nat) (ctr : Block) (j : Nat) : Block := BitVec.ofNat 128 ((ctr.toNat + j) % 2 ^ (8 * bs))

/-- A key evolved `n` times (R117). -/
def evolved (c : Config) (bs16 : Bool) (key : Key) (n : Nat) : Key := (c.acpkmNext bs16)^[n] key

/-- The chaining value of OMAC after the first `j` of the blocks `blk 0, blk 1, ...` (R120). -/
def omacChained (c : Config) (bs16 : Bool) (key : Key) (blk : Nat → Block) : Nat → Block
  | 0 => 0
  | j + 1 => blockEnc c bs16 key (omacChained c bs16 key blk j ^^^ blk j)

/-! ### Sessions -/

/-- `MgmKeyOk(s)` (R132) as a proposition. -/
abbrev UsableInMgm (s : State) (k : SlotId) : Prop := (s.slot k).st = .keyed ∧ (s.slot k).bs16 = true

/-- What `Pipeline` checks before it changes anything (R160): the keys, the tag length, the chunk lengths and the IV
length. -/
structure PipelineReady (c : Config) (ek ak : SlotId) (taglen : Nat) (s : State) : Prop where
  ek_usable : UsableInMgm s ek
  ak_usable : UsableInMgm s ak
  taglen_ge : 4 ≤ taglen
  taglen_le : taglen ≤ 16
  alen_le : s.alen.toNat ≤ c.bufBytes
  dlen_le : s.dlen.toNat ≤ c.bufBytes
  ivlen_lt : s.ivlen.toNat < 16

/-- The accumulator after the first `q` of the blocks `blk 0, blk 1, ...` are absorbed under the key `akey` from the
counter `z` (R134). -/
def absorbedSum (c : Config) (akey : Key) (z sum : Block) (blk : Nat → Block) : Nat → Block
  | 0 => sum
  | q + 1 => absorbedSum c akey z sum blk q ^^^ c.gfmul (blockEnc c true akey (c.incrZ^[q] z)) (blk q)

/-- A command that runs and passes its state on: the second command runs in the state the first one left. -/
def andThen (o : Host.Outcome State Fault Refusal) (f : State → Host.Outcome State Fault Refusal) :
    Host.Outcome State Fault Refusal :=
  match o with
  | .next s => f s
  | .fault r => .fault r
  | .refused r => .refused r

/-! ### What the host can see -/

/-- Two states look the same through every read transaction (R51): the operand registers, the elements `STATUS`
shows, the two length counters, and every buffer but `KEYIN`. -/
structure SameToHost (s t : State) : Prop where
  alen : s.alen = t.alen
  dlen : s.dlen = t.dlen
  klen : s.klen = t.klen
  ivlen : s.ivlen = t.ivlen
  secsz : s.secsz = t.secsz
  err : s.err = t.err
  verdict : s.verdict = t.verdict
  phase : s.m.phase = t.m.phase
  aclosed : s.m.aclosed = t.m.aclosed
  eclosed : s.m.eclosed = t.m.eclosed
  abits : s.m.abits = t.m.abits
  pbits : s.m.pbits = t.m.pbits
  slotState : ∀ k, (s.slot k).st = (t.slot k).st
  slotBs16 : ∀ k, (s.slot k).bs16 = (t.slot k).bs16
  buffers : ∀ sp, sp ≠ Space.keyin → s.buf sp = t.buf sp

/-! ### Error codes by command -/

/-- The codes other than OK that a command can end with (R171). -/
def possibleErrors : Instr → List ErrCode
  | .kcreate _ _ => [.invalidParameter]
  | .kset _ _ => [.invalidParameter, .invalidKeyLength, .scheduleFailure]
  | .ksetrnd _ _ => [.invalidParameter, .scheduleFailure, .randomSourceExhausted]
  | .ksetpwd _ _ => [.invalidParameter, .scheduleFailure, .kdfFailure]
  | .kenc _ => [.invalidParameter, .invalidLength]
  | .kdec _ => [.invalidParameter, .invalidLength]
  | .kdestroy _ => []
  | .ecbenc _ => [.invalidParameter, .invalidLength]
  | .ecbdec _ => [.invalidParameter, .invalidLength]
  | .ctr _ _ => [.invalidParameter, .invalidIVLength, .phaseViolation]
  | .acpkm _ _ => [.invalidParameter, .invalidIVLength, .phaseViolation]
  | .omac _ => [.invalidParameter]
  | .mgmaclean _ _ => [.invalidParameter, .invalidIVLength]
  | .mgmaupd => [.invalidParameter, .phaseViolation, .dataTooLong]
  | .mgmeclean => [.invalidParameter, .phaseViolation]
  | .mgmenc => [.invalidParameter, .phaseViolation, .dataTooLong]
  | .mgmdec => [.invalidParameter, .phaseViolation, .dataTooLong]
  | .mgmfin _ => [.invalidParameter, .phaseViolation]
  | .mgmencall _ _ _ => [.invalidParameter, .invalidIVLength]
  | .mgmdecall _ _ _ => [.invalidParameter, .invalidIVLength, .authenticationFailed]

/-- A command of the key-object family on slot `k` (R90 to R99). -/
def keyCommandOn (k : SlotId) : Instr → Bool
  | .kcreate k' _ => k' == k
  | .kset k' _ => k' == k
  | .ksetrnd k' _ => k' == k
  | .ksetpwd k' _ => k' == k
  | .kenc k' => k' == k
  | .kdec k' => k' == k
  | .kdestroy k' => k' == k
  | _ => false

/-- A command of the cipher-mode family on slot `k` (R110 to R120). -/
def modeCommandOn (k : SlotId) : Instr → Bool
  | .ecbenc k' => k' == k
  | .ecbdec k' => k' == k
  | .ctr k' _ => k' == k
  | .acpkm k' _ => k' == k
  | .omac k' => k' == k
  | _ => false

/-- The phases in which a command is not answered with `PhaseViolation` on account of the session (R130). -/
def acceptedInPhase (m : Session) : Instr → Bool
  | .mgmaupd => m.phase == .auth && !m.aclosed
  | .mgmeclean => m.phase == .auth
  | .mgmenc => m.phase == .enc && !m.eclosed
  | .mgmdec => m.phase == .enc && !m.eclosed
  | .mgmfin _ => m.phase == .auth || m.phase == .enc
  | _ => true

/-- The phase after a successful MGM command (R130); every other command keeps the phase. -/
def phaseAfter (m : Session) : Instr → Phase
  | .mgmaclean _ _ => .auth
  | .mgmaupd => .auth
  | .mgmeclean => .enc
  | .mgmenc => .enc
  | .mgmdec => .enc
  | .mgmfin _ => .finalized
  | .mgmencall _ _ _ => .finalized
  | .mgmdecall _ _ _ => .finalized
  | _ => m.phase

end Sys2Proof.Machine
end

