-- ==== Sys2Proof/Certificates/Slice0/Obligations.lean ====
section
/-! DEFINITION. What is to be proved of the model. A buffer is described by what each of its bytes reads as
(`Memory.Holds`), which fixes it, and the rest of the next state by a record update: what is not named in the update is
unchanged, in the model's own fields `draws`, `pending` and `reply` too (log entries 2 and 3). `s.raise e` is `s` with
`err := e` and `verdict := false` (R172). Statements over `Config.machine` hold for every configuration, since it has no
body; those whose premises speak of an answer of the configuration are stated of `execWith c`, which `exec` is at
`Config.machine`. -/

open Sys2Proof Sys2Proof.Machine

/-! ### Reset and the invariant -/

/-- R38: every element after reset, and what the host reads. -/
def Obligations.ResetLeavesEveryElementZero : Prop :=
  State.reset.alen = 0 ∧ State.reset.dlen = 0 ∧ State.reset.klen = 0 ∧ State.reset.ivlen = 0 ∧
  State.reset.secsz = 0 ∧ State.reset.readReg .cmd = .word 0 ∧ State.reset.err = .ok ∧ State.reset.verdict = false ∧
  State.reset.statusWord = 0x00000000 ∧ State.reset.m.abits = 0 ∧ State.reset.m.pbits = 0 ∧
  (∀ k, (State.reset.slot k).st = .empty ∧ (State.reset.slot k).bs16 = false ∧
    (∀ i : Fin 32, (State.reset.slot k).key[i] = 0 ∧ (State.reset.slot k).wkey[i] = 0) ∧
    (State.reset.slot k).ctr = 0 ∧ (State.reset.slot k).live = false ∧ (State.reset.slot k).kind = .ctr ∧
    (State.reset.slot k).secsz = 0 ∧ (State.reset.slot k).secpos = 0) ∧
  State.reset.m.phase = .clean ∧ State.reset.m.sum = 0 ∧ State.reset.m.y = 0 ∧ State.reset.m.z = 0 ∧
  State.reset.m.aclosed = false ∧ State.reset.m.eclosed = false ∧ (∀ i : Fin 16, State.reset.m.iv[i] = 0) ∧
  State.reset.m.ivlen = 0 ∧ State.reset.m.ek = .slot0 ∧ State.reset.m.ak = .slot0 ∧
  ∀ sp a, (State.reset.buf sp).read a = 0

/-- R190: the reset input gives every element of the engine its reset value. That the host's further transactions and
the count of draws stay is the model's choice (log entry 4). -/
def Obligations.ResetInputRestoresReset : Prop :=
  ∀ (s : State) (rest : List Transaction), s.pending = .reset :: rest →
    step s = .next { State.reset with pending := rest, draws := s.draws }

/-- The invariant holds right after reset. -/
def Obligations.ResetMeetsInvariant : Prop := State.reset.Inv Config.machine

/-- Every step keeps the invariant: the widths, the closed flags, the latched IV, the zeroized slots, the canonical
buffers, the verdict (R23, R25 to R29, R31 to R34, R50, R179). -/
def Obligations.StepKeepsInvariant : Prop :=
  ∀ s t : State, s.Inv Config.machine → step s = .next t → t.Inv Config.machine

/-! ### Encoding -/

/-- Decoding an encoded well-formed command gives it back, whatever its operands. -/
def Obligations.DecodeOfEncode : Prop := ∀ i : Instr, i.wf = true → decode (encode i) = some i

/-- Every word that decodes is the encoding of a well-formed command: no word has two readings and no bit of a legal
word is dropped. -/
def Obligations.EncodeOfDecode : Prop :=
  ∀ (w : Word) (i : Instr), decode w = some i → i.wf = true ∧ encode i = w

/-- R74: the `match` and `mask` of every row, and that a word selects a row exactly when `w and mask = match`. -/
def Obligations.DecodeSelectsTableRow : Prop :=
  (∀ op : Opcode, op.tableMask = 0xFFFFFFFF#32 ^^^ op.used ∧
    op.tableMatch = op.code.setWidth 32) ∧
  ∀ (w : Word) (op : Opcode), (∃ i, decode w = some i ∧ i.opcode = op) ↔ w &&& op.tableMask = op.tableMatch

/-- R82: the word of every command statement. -/
def Obligations.AssemblerWords : Prop :=
  ∀ (s ek ak : SlotId) (f : Bool) (n : Nat), n < 32 →
    let bs : Word := BitVec.ofNat 32 n
    let slot : SlotId → Word := fun k => if k = .slot1 then 1 else 0
    let flg : Word := if f then 1 else 0
    encode (.kcreate s n) = 0x01 ||| slot s <<< 8 ||| bs <<< 16 ∧
    encode (.kset s f) = 0x02 ||| slot s <<< 8 ||| flg <<< 10 ∧
    encode (.ksetrnd s f) = 0x03 ||| slot s <<< 8 ||| flg <<< 10 ∧
    encode (.ksetpwd s f) = 0x04 ||| slot s <<< 8 ||| flg <<< 10 ∧
    encode (.kenc s) = 0x05 ||| slot s <<< 8 ∧
    encode (.kdec s) = 0x06 ||| slot s <<< 8 ∧
    encode (.kdestroy s) = 0x07 ||| slot s <<< 8 ∧
    encode (.ecbenc s) = 0x10 ||| slot s <<< 8 ∧
    encode (.ecbdec s) = 0x11 ||| slot s <<< 8 ∧
    encode (.ctr s f) = 0x12 ||| slot s <<< 8 ||| flg <<< 10 ∧
    encode (.acpkm s f) = 0x13 ||| slot s <<< 8 ||| flg <<< 10 ∧
    encode (.omac s) = 0x14 ||| slot s <<< 8 ∧
    encode (.mgmaclean ek ak) = 0x20 ||| slot ek <<< 8 ||| slot ak <<< 9 ∧
    encode .mgmaupd = 0x21 ∧ encode .mgmeclean = 0x22 ∧ encode .mgmenc = 0x23 ∧ encode .mgmdec = 0x24 ∧
    encode (.mgmfin n) = 0x25 ||| bs <<< 16 ∧
    encode (.mgmencall ek ak n) = 0x28 ||| slot ek <<< 8 ||| slot ak <<< 9 ||| bs <<< 16 ∧
    encode (.mgmdecall ek ak n) = 0x29 ||| slot ek <<< 8 ||| slot ak <<< 9 ||| bs <<< 16

/-- Words of the spec's examples decode to their commands, and its illegal words to none (R92, R93, R115, R116, R135,
R142, R161, R162; vectors V4.21 to V4.28). -/
def Obligations.SampleWordsDecode : Prop :=
  decode 0x00100001 = some (.kcreate .slot0 16) ∧ decode 0x000C0001 = some (.kcreate .slot0 12) ∧
  decode 0x00080101 = some (.kcreate .slot1 8) ∧ decode 0x00000402 = some (.kset .slot0 true) ∧
  decode 0x00000110 = some (.ecbenc .slot1) ∧ decode 0x00000412 = some (.ctr .slot0 true) ∧
  decode 0x00000013 = some (.acpkm .slot0 false) ∧ decode 0x00000114 = some (.omac .slot1) ∧
  decode 0x00000220 = some (.mgmaclean .slot0 .slot1) ∧ decode 0x00030025 = some (.mgmfin 3) ∧
  decode 0x00080228 = some (.mgmencall .slot0 .slot1 8) ∧ decode 0x00100229 = some (.mgmdecall .slot0 .slot1 16) ∧
  decode 0x00000000 = none ∧ decode 0x00000008 = none ∧ decode 0x00000805 = none ∧ decode 0x00200025 = none ∧
  decode 0x00100021 = none ∧ decode 0x000000FF = none ∧ decode 0x00100125 = none ∧ decode 0x00000121 = none

/-! ### The step -/

/-- A step whose transaction is `WR CMD, w` runs the command that `w` decodes to, in the state the host left (R22, R57,
R60, R64); the word placed by `withFetchWord` is such a transaction (log entry 3). -/
def Obligations.StepRunsDecodedCommand : Prop :=
  (∀ (s : State) (w : Word) (rest : List Transaction) (i : Instr),
    s.pending = .wr 0x00 (w.setWidth 64) :: rest → decode w = some i →
      step s = exec i { s with pending := rest, reply := none }) ∧
  ∀ (s : State) (i : Instr), i.wf = true →
    step (s.withFetchWord 32 (encode i).toNat) = exec i { s with reply := none }

/-- R75: an illegal word, one that selects no row, is a command that fails with `InvalidParameter`; the all-zero word is
one. -/
def Obligations.IllegalWordFails : Prop :=
  decode 0x00000000 = none ∧
  ∀ (s : State) (w : Word) (rest : List Transaction), s.pending = .wr 0x00 (w.setWidth 64) :: rest →
    (∀ op : Opcode, w &&& op.tableMask ≠ op.tableMatch) →
      step s = .next { s with pending := rest, reply := none, err := .invalidParameter, verdict := false }

/-- Every read transaction returns what R51 and R59 give it and changes nothing else (R56). -/
def Obligations.ReadTransactions : Prop :=
  ∀ (s : State) (rest : List Transaction),
    (∀ (n : Nat) (r : Reply),
      (n, r) ∈ [(0x00, Reply.word 0), (0x01, .word s.statusWord), (0x02, .word s.alen), (0x03, .word s.dlen),
        (0x04, .word s.klen), (0x05, .word s.ivlen), (0x06, .word s.secsz), (0x08, .dword s.m.abits),
        (0x09, .dword s.m.pbits)] →
      step { s with pending := .rd n :: rest } = .next { s with pending := rest, reply := some r }) ∧
    ∀ (n : Nat) (sp : Space) (size off k : Nat), (n, sp, size) ∈ bufferTable Config.machine →
      1 ≤ k → off + k ≤ size →
      step { s with pending := .rdb n off k :: rest } =
        .next
          { s with
            pending := rest
            reply := some (.bytes ((List.range k).map fun i =>
              if sp = .keyin then 0 else (s.buf sp).read (off + i))) }

/-- Every write transaction other than a command stores exactly what it names, where R51 allows it, and changes nothing
where R51 ignores it. -/
def Obligations.WriteTransactions : Prop :=
  ∀ (s : State) (rest : List Transaction) (v : Word),
    let t : State := { s with pending := rest, reply := none }
    let write : Nat → State := fun n => { s with pending := .wr n (v.setWidth 64) :: rest }
    step (write 0x02) = .next { t with alen := v } ∧
    step (write 0x03) = .next { t with dlen := v } ∧
    step (write 0x04) = .next { t with klen := v } ∧
    step (write 0x05) = .next { t with ivlen := v } ∧
    step (write 0x06) = .next { t with secsz := v } ∧
    step (write 0x01) = .next t ∧
    (∀ d : DWord, step { s with pending := .wr 0x08 d :: rest } = .next t ∧
      step { s with pending := .wr 0x09 d :: rest } = .next t) ∧
    ∀ (n : Nat) (sp : Space) (size off : Nat) (b : List Byte), (n, sp, size) ∈ bufferTable Config.machine →
      1 ≤ b.length → off + b.length ≤ size → (s.buf sp).wf = true →
      ∃ d : Memory,
        d.Holds (fun a => if off ≤ a ∧ a < off + b.length then b.getD (a - off) 0 else (s.buf sp).read a) ∧
        step { s with pending := .wrb n off b :: rest } =
          .next (if sp = .tag ∨ sp = .dout then t else t.setBuf sp d)

/-- Exactly the transactions that are not part of the interface have no step. Refusing them is the model's choice, and so
is checking the number, the width and the range before the access right, so that a too-wide `WR STATUS` and an
out-of-range `WRB` of `TAG` or `DOUT` are refused and not ignored (log entry 9): R65 also lets a model ignore a
transaction out of range. -/
def Obligations.RefusedTransactions : Prop :=
  ∀ (s : State) (rest : List Transaction) (tr : Transaction), s.pending = tr :: rest →
    ((∃ r, step s = .refused r) ↔
      match tr with
      | .wr n v => n ∉ [0, 1, 2, 3, 4, 5, 6, 8, 9] ∨ (n ≠ 8 ∧ n ≠ 9 ∧ 2 ^ 32 ≤ v.toNat)
      | .rd n => n ∉ [0, 1, 2, 3, 4, 5, 6, 8, 9]
      | .wrb n off b =>
        ∀ sp size, (n, sp, size) ∈ bufferTable Config.machine → b.length = 0 ∨ size < off + b.length
      | .rdb n off k => ∀ sp size, (n, sp, size) ∈ bufferTable Config.machine → k = 0 ∨ size < off + k
      | .reset => False)

/-- The fields of the `STATUS` word (R23, R170), every bit of it. -/
def Obligations.StatusWordFields : Prop :=
  ∀ s : State,
    (∀ n : BitVec 8,
      (s.err, n) ∈ [(ErrCode.ok, 0), (.invalidParameter, 1), (.invalidKeyLength, 2), (.scheduleFailure, 3),
        (.invalidIVLength, 4), (.phaseViolation, 5), (.dataTooLong, 6), (.authenticationFailed, 7),
        (.allocationFailure, 8), (.invalidLength, 9), (.randomSourceExhausted, 10), (.kdfFailure, 11)] →
      s.statusWord.extractLsb' 0 8 = n) ∧
    (∀ n : BitVec 2, (s.m.phase, n) ∈ [(Phase.clean, 0), (.auth, 1), (.enc, 2), (.finalized, 3)] →
      s.statusWord.extractLsb' 8 2 = n) ∧
    s.statusWord.getLsbD 10 = s.m.aclosed ∧ s.statusWord.getLsbD 11 = s.m.eclosed ∧
    s.statusWord.getLsbD 12 = s.verdict ∧ s.statusWord.extractLsb' 13 3 = 0 ∧
    (∀ n : BitVec 2, (s.k0.st, n) ∈ [(SlotState.empty, 0), (.created, 1), (.keyed, 2)] →
      s.statusWord.extractLsb' 16 2 = n) ∧
    (∀ n : BitVec 2, (s.k1.st, n) ∈ [(SlotState.empty, 0), (.created, 1), (.keyed, 2)] →
      s.statusWord.extractLsb' 18 2 = n) ∧
    s.statusWord.getLsbD 20 = s.k0.bs16 ∧ s.statusWord.getLsbD 21 = s.k1.bs16 ∧
    s.statusWord.extractLsb' 22 10 = 0

/-- No read transaction reaches the keys, the counters, the accumulator, the latched IV or `KEYIN`: two states that
differ only there answer every read alike (R51, R178). -/
def Obligations.HostSeesNoSecrets : Prop :=
  ∀ (s t : State) (rest : List Transaction) (tr : Transaction), SameToHost s t →
    ((∃ n, tr = .rd n) ∨ ∃ n off k, tr = .rdb n off k) →
    ∀ s' : State, step { s with pending := tr :: rest } = .next s' →
      ∃ t' : State, step { t with pending := tr :: rest } = .next t' ∧ t'.reply = s'.reply

/-! ### Outcomes -/

/-- Every command, in every state, answers a next state with `ERR` either OK or one of the codes of its row (R171): no
command faults, hangs or is refused. -/
def Obligations.ErrorCodesPerCommand : Prop :=
  ∀ (i : Instr) (s : State), ∃ t : State,
    exec i s = .next t ∧ (t.err = .ok ∨ t.err ∈ possibleErrors i) ∧ t.err ≠ .allocationFailure

/-- R172: an error other than `AuthenticationFailed`, whose effect is that of R162, changes `ERR` and `VERDICT` and
nothing else. That the model's own count of draws advances exactly when `KSETRND` fails after its draw, with any error but
the `InvalidParameter` of the check before it, is the model's choice (log entry 2). -/
def Obligations.FailedCommandChangesOnlyTheOutcome : Prop :=
  ∀ (i : Instr) (s t : State), exec i s = .next t → t.err ≠ .ok → t.err ≠ .authenticationFailed →
    t =
      { s with
        err := t.err
        verdict := false
        draws := if i.opcode = .ksetrnd ∧ t.err ≠ .invalidParameter then s.draws + 1 else s.draws }

/-- `VERDICT` is written by every command: to 1 by an `MGMDECALL` that ends with `ERR = 0`, to 0 by every other outcome
(R23). The tag length is then one of R162's, and the bytes of `TAG` that it names are those of `TAGIN` (R162, R163). Only
an `MGMDECALL` ends with `AuthenticationFailed` (R162). -/
def Obligations.VerdictOnlyAfterMatchingTag : Prop :=
  ∀ (i : Instr) (s t : State), exec i s = .next t →
    (t.verdict = true ↔ t.err = .ok ∧ ∃ ek ak n, i = .mgmdecall ek ak n) ∧
    (∀ ek ak n, i = .mgmdecall ek ak n → t.verdict = true →
      4 ≤ n ∧ n ≤ 16 ∧ ∀ a, a < n → t.tag.read a = s.tagin.read a) ∧
    (t.err = .authenticationFailed → ∃ ek ak n, i = .mgmdecall ek ak n)

/-- What a command never writes: the operand registers (R21), the input buffers, the outputs of other commands (R66), and
every byte of `DOUT` from `DLEN` on (R50). -/
def Obligations.CommandsWriteOnlyTheirOutputs : Prop :=
  ∀ (i : Instr) (s t : State), exec i s = .next t →
    t.alen = s.alen ∧ t.dlen = s.dlen ∧ t.klen = s.klen ∧ t.ivlen = s.ivlen ∧ t.secsz = s.secsz ∧
    t.ivin = s.ivin ∧ t.keyin = s.keyin ∧ t.tagin = s.tagin ∧ t.ain = s.ain ∧ t.din = s.din ∧
    t.pending = s.pending ∧ t.reply = s.reply ∧
    (i.opcode ∉ [Opcode.omac, .mgmaclean, .mgmfin, .mgmencall, .mgmdecall] → t.tag = s.tag) ∧
    (i.opcode ∉ [Opcode.kenc, .kdec, .ecbenc, .ecbdec, .ctr, .acpkm, .mgmenc, .mgmdec, .mgmencall, .mgmdecall] →
      t.dout = s.dout) ∧
    (s.dout.wf = true → ∀ a, s.dlen.toNat ≤ a → t.dout.read a = s.dout.read a)

/-! ### Key-object commands -/

/-- R92: `KCREATE s, bs`. -/
def Obligations.KcreateResult : Prop :=
  ∀ (k : SlotId) (bs : Nat) (s : State),
    (bs = 8 ∨ bs = 16 →
      exec (.kcreate k bs) s =
        .next (({ s with err := .ok, verdict := false } : State).setSlot k (createdSlot (bs == 16)))) ∧
    (¬ (bs = 8 ∨ bs = 16) → exec (.kcreate k bs) s = .next (s.raise .invalidParameter))

/-- R93, R91: `KSET s, validate`, for every configuration that accepts the key, for the machine whatever it answers, and
where the first two checks fail. -/
def Obligations.KsetResult : Prop :=
  (∀ (c : Config) (k : SlotId) (v : Bool) (s : State) (key : Key), (∀ i : Fin 32, key[i] = s.keyin.read i.val) →
    (s.slot k).st ≠ .empty → s.klen = 32 → c.scheduleOk (s.slot k).bs16 key v = true →
      execWith c (.kset k v) s = .next (installedState s k key)) ∧
  (∀ (k : SlotId) (v : Bool) (s : State) (key : Key), (∀ i : Fin 32, key[i] = s.keyin.read i.val) →
    (s.slot k).st ≠ .empty → s.klen = 32 →
      exec (.kset k v) s =
        .next (if Config.machine.scheduleOk (s.slot k).bs16 key v then installedState s k key
          else s.raise .scheduleFailure)) ∧
  ∀ (k : SlotId) (v : Bool) (s : State), (s.slot k).st = .empty ∨ s.klen ≠ 32 →
    exec (.kset k v) s =
      .next (s.raise (if (s.slot k).st = .empty then .invalidParameter else .invalidKeyLength))

/-- R94, R91: `KSETRND s, validate`. The n-th draw is the configuration's free answer `rng n`, and `draws` counts the
draws made (log entry 2). -/
def Obligations.KsetrndResult : Prop :=
  (∀ (c : Config) (k : SlotId) (v : Bool) (s : State) (r : Key), (s.slot k).st ≠ .empty →
    c.rng s.draws 32 = some r → c.scheduleOk (s.slot k).bs16 r v = true →
      execWith c (.ksetrnd k v) s = .next { installedState s k r with draws := s.draws + 1 }) ∧
  (∀ (k : SlotId) (v : Bool) (s : State), (s.slot k).st ≠ .empty →
    exec (.ksetrnd k v) s =
      .next
        { (match Config.machine.rng s.draws 32 with
           | none => s.raise .randomSourceExhausted
           | some r =>
             if Config.machine.scheduleOk (s.slot k).bs16 r v then installedState s k r
             else s.raise .scheduleFailure) with
          draws := s.draws + 1 }) ∧
  ∀ (k : SlotId) (v : Bool) (s : State), (s.slot k).st = .empty →
    exec (.ksetrnd k v) s = .next (s.raise .invalidParameter)

/-- R95, R91: `KSETPWD s, validate`, the password in `AIN` and the salt in `DIN`. -/
def Obligations.KsetpwdResult : Prop :=
  (∀ (c : Config) (k : SlotId) (v : Bool) (s : State) (d : Key), (s.slot k).st ≠ .empty →
    s.alen.toNat ≤ c.bufBytes → s.dlen.toNat ≤ c.bufBytes →
    c.kdf (s.ain.readBytes 0 s.alen.toNat) (s.din.readBytes 0 s.dlen.toNat) 32 = some d →
    c.scheduleOk (s.slot k).bs16 d v = true →
      execWith c (.ksetpwd k v) s = .next (installedState s k d)) ∧
  (∀ (k : SlotId) (v : Bool) (s : State), (s.slot k).st ≠ .empty →
    s.alen.toNat ≤ Config.machine.bufBytes → s.dlen.toNat ≤ Config.machine.bufBytes →
    exec (.ksetpwd k v) s =
      .next
        (match Config.machine.kdf (s.ain.readBytes 0 s.alen.toNat) (s.din.readBytes 0 s.dlen.toNat) 32 with
         | none => s.raise .kdfFailure
         | some d =>
           if Config.machine.scheduleOk (s.slot k).bs16 d v then installedState s k d
           else s.raise .scheduleFailure)) ∧
  ∀ (k : SlotId) (v : Bool) (s : State),
    (s.slot k).st = .empty ∨ Config.machine.bufBytes < s.alen.toNat ∨ Config.machine.bufBytes < s.dlen.toNat →
    exec (.ksetpwd k v) s = .next (s.raise .invalidParameter)

/-- R96: `KENC s`. -/
def Obligations.KencResult : Prop :=
  ∀ (k : SlotId) (s : State), s.dout.wf = true →
    let sl := s.slot k
    (sl.st = .keyed → s.dlen.toNat = sl.bs →
      ∃ d : Memory,
        d.Holds (fun a =>
          if a < sl.bs then
            byteOf sl.bs (blockEnc Config.machine sl.bs16 sl.key (blockOf (s.din.readBytes 0 sl.bs))) a
          else s.dout.read a) ∧
        exec (.kenc k) s = .next { s with dout := d, err := .ok, verdict := false }) ∧
    (¬ (sl.st = .keyed ∧ s.dlen.toNat = sl.bs) →
      exec (.kenc k) s = .next (s.raise (if sl.st = .keyed then .invalidLength else .invalidParameter)))

/-- R97: `KDEC s`. -/
def Obligations.KdecResult : Prop :=
  ∀ (k : SlotId) (s : State), s.dout.wf = true →
    let sl := s.slot k
    (sl.st = .keyed → s.dlen.toNat = sl.bs →
      ∃ d : Memory,
        d.Holds (fun a =>
          if a < sl.bs then
            byteOf sl.bs (blockDec Config.machine sl.bs16 sl.key (blockOf (s.din.readBytes 0 sl.bs))) a
          else s.dout.read a) ∧
        exec (.kdec k) s = .next { s with dout := d, err := .ok, verdict := false }) ∧
    (¬ (sl.st = .keyed ∧ s.dlen.toNat = sl.bs) →
      exec (.kdec k) s = .next (s.raise (if sl.st = .keyed then .invalidLength else .invalidParameter)))

/-- `KDEC` of the output of `KENC` under the same slot returns the input (R97, by `EncDecInverse`). -/
def Obligations.KdecInvertsKenc : Prop :=
  ∀ (k : SlotId) (s : State), s.dout.wf = true → (s.slot k).st = .keyed → s.dlen.toNat = (s.slot k).bs →
    ∃ t u : State, exec (.kenc k) s = .next t ∧ t.err = .ok ∧
      exec (.kdec k) { t with din := t.dout } = .next u ∧ u.err = .ok ∧ ∀ a, a < s.dlen.toNat → u.dout.read a = s.din.read a

/-- R98, R29: `KDESTROY s` zeroizes the slot, cannot fail and is idempotent. -/
def Obligations.KdestroyResult : Prop :=
  ∀ (k : SlotId) (s : State), ∃ t : State,
    exec (.kdestroy k) s = .next t ∧ exec (.kdestroy k) t = .next t ∧
    t = ({ s with err := .ok, verdict := false } : State).setSlot k
      { st := .empty, bs16 := false, key := Vector.replicate 32 0, ctr := 0, live := false, kind := .ctr,
        wkey := Vector.replicate 32 0, secsz := 0, secpos := 0 }

/-- R90: how a slot moves between EMPTY, CREATED and KEYED; no other command and no failed one changes `st`. -/
def Obligations.SlotLifeCycle : Prop :=
  ∀ (i : Instr) (s t : State) (k : SlotId), exec i s = .next t →
    (t.err = .ok → (∃ bs, i = .kcreate k bs) → (t.slot k).st = .created) ∧
    (t.err = .ok → (∃ v, i = .kset k v ∨ i = .ksetrnd k v ∨ i = .ksetpwd k v) →
      (s.slot k).st ≠ .empty ∧ (t.slot k).st = .keyed ∧ (t.slot k).bs16 = (s.slot k).bs16) ∧
    (i = .kdestroy k → (t.slot k).st = .empty) ∧
    (t.err ≠ .ok → t.err ≠ .authenticationFailed → t.slot k = s.slot k) ∧
    (i.opcode ∉ [Opcode.kcreate, .kset, .ksetrnd, .ksetpwd, .kdestroy] →
      (t.slot k).st = (s.slot k).st ∧ (t.slot k).bs16 = (s.slot k).bs16 ∧ (t.slot k).key = (s.slot k).key)

/-- R99: a key command on slot `k` reads and writes nothing of the other slot, nor does a mode command. -/
def Obligations.CommandsLeaveTheOtherSlot : Prop :=
  ∀ (i : Instr) (s t : State) (k : SlotId) (other : Slot), keyCommandOn k i = true ∨ modeCommandOn k i = true →
    exec i s = .next t →
      t.slot k.other = s.slot k.other ∧ exec i (s.setSlot k.other other) = .next (t.setSlot k.other other)

/-! ### Cipher modes -/

/-- R111: `ECBENC s`. -/
def Obligations.EcbencResult : Prop :=
  ∀ (k : SlotId) (s : State), s.dout.wf = true →
    let sl := s.slot k
    (sl.st = .keyed → s.dlen.toNat ≤ Config.machine.bufBytes → s.dlen.toNat % sl.bs = 0 →
      ∃ d : Memory,
        d.Holds (fun a =>
          if a < s.dlen.toNat then
            byteOf sl.bs
              (blockEnc Config.machine sl.bs16 sl.key (blockOf (s.din.readBytes (a / sl.bs * sl.bs) sl.bs))) (a % sl.bs)
          else s.dout.read a) ∧
        exec (.ecbenc k) s = .next { s with dout := d, err := .ok, verdict := false }) ∧
    (¬ (sl.st = .keyed ∧ s.dlen.toNat ≤ Config.machine.bufBytes ∧ s.dlen.toNat % sl.bs = 0) →
      exec (.ecbenc k) s =
        .next (s.raise (if sl.st = .keyed ∧ s.dlen.toNat ≤ Config.machine.bufBytes then .invalidLength
          else .invalidParameter)))

/-- R112: `ECBDEC s`. -/
def Obligations.EcbdecResult : Prop :=
  ∀ (k : SlotId) (s : State), s.dout.wf = true →
    let sl := s.slot k
    (sl.st = .keyed → s.dlen.toNat ≤ Config.machine.bufBytes → s.dlen.toNat % sl.bs = 0 →
      ∃ d : Memory,
        d.Holds (fun a =>
          if a < s.dlen.toNat then
            byteOf sl.bs
              (blockDec Config.machine sl.bs16 sl.key (blockOf (s.din.readBytes (a / sl.bs * sl.bs) sl.bs))) (a % sl.bs)
          else s.dout.read a) ∧
        exec (.ecbdec k) s = .next { s with dout := d, err := .ok, verdict := false }) ∧
    (¬ (sl.st = .keyed ∧ s.dlen.toNat ≤ Config.machine.bufBytes ∧ s.dlen.toNat % sl.bs = 0) →
      exec (.ecbdec k) s =
        .next (s.raise (if sl.st = .keyed ∧ s.dlen.toNat ≤ Config.machine.bufBytes then .invalidLength
          else .invalidParameter)))

/-- `ECBDEC` of the output of `ECBENC` returns the data, for any number of blocks (R112). -/
def Obligations.EcbRoundTrip : Prop :=
  ∀ (k : SlotId) (s : State), s.dout.wf = true → (s.slot k).st = .keyed →
    s.dlen.toNat ≤ Config.machine.bufBytes → s.dlen.toNat % (s.slot k).bs = 0 →
    ∃ t u : State, exec (.ecbenc k) s = .next t ∧ t.err = .ok ∧
      exec (.ecbdec k) { t with din := t.dout } = .next u ∧ u.err = .ok ∧ ∀ a, a < s.dlen.toNat → u.dout.read a = s.din.read a

/-- R113 to R115: `CTR s, first`. Byte `a` of the output is the data byte under byte `a mod bs` of the keystream block of
the counter `a / bs` blocks on, the counter ends past the last block, and a partial last block closes the stream. -/
def Obligations.CtrResult : Prop :=
  ∀ (k : SlotId) (first : Bool) (s : State), s.dout.wf = true → (s.slot k).Inv →
    let sl := s.slot k
    let start := if first then ivCounter s sl.bs else sl.ctr
    let canContinue := first = true ∨ (sl.live = true ∧ sl.kind = .ctr)
    (canContinue → sl.st = .keyed → s.dlen.toNat ≤ Config.machine.bufBytes →
      (first = true → s.ivlen.toNat = sl.bs / 2) →
      ∃ d : Memory,
        d.Holds (fun a =>
          if a < s.dlen.toNat then
            s.din.read a ^^^
              keystreamByte Config.machine sl.bs16 sl.key (ctrAt sl.bs start (a / sl.bs)) (a % sl.bs)
          else s.dout.read a) ∧
        exec (.ctr k first) s =
          .next (({ s with dout := d, err := .ok, verdict := false } : State).setSlot k
            { sl with
              ctr := ctrAt sl.bs start (numBlocks sl.bs s.dlen.toNat)
              live := decide (s.dlen.toNat % sl.bs = 0)
              kind := .ctr })) ∧
    (¬ (canContinue ∧ sl.st = .keyed ∧ s.dlen.toNat ≤ Config.machine.bufBytes ∧
        (first = true → s.ivlen.toNat = sl.bs / 2)) →
      exec (.ctr k first) s =
        .next (s.raise
          (if ¬ canContinue then .phaseViolation
           else if sl.st = .keyed ∧ s.dlen.toNat ≤ Config.machine.bufBytes then .invalidIVLength
           else .invalidParameter)))

/-- Applying `CTR` twice with the same IV returns the input (R115). -/
def Obligations.CtrTwiceReturnsInput : Prop :=
  ∀ (k : SlotId) (s : State), s.dout.wf = true → (s.slot k).st = .keyed →
    s.dlen.toNat ≤ Config.machine.bufBytes → s.ivlen.toNat = (s.slot k).bs / 2 →
    ∃ t u : State, exec (.ctr k true) s = .next t ∧ t.err = .ok ∧
      exec (.ctr k true) { t with din := t.dout } = .next u ∧ u.err = .ok ∧ u.slot k = t.slot k ∧ ∀ a, a < s.dlen.toNat → u.dout.read a = s.din.read a

/-- A message cut at a multiple of the block size and continued by a `first = 0` command gives the same output and leaves
the same slot as one command over the whole (R115; for ACPKM R116, R117). -/
def Obligations.StreamChunksJoin : Prop :=
  ∀ (k : SlotId) (command : Bool → Instr) (first : Bool) (s t : State) (a b : Nat) (d : Memory),
    command = Instr.ctr k ∨ command = Instr.acpkm k → s.dout.wf = true →
    exec (command first) s = .next t → t.err = .ok →
    s.dlen.toNat = a + b → a % (s.slot k).bs = 0 → (∀ i, i < b → d.read i = s.din.read (a + i)) →
    ∃ t1 t2 : State,
      exec (command first) { s with dlen := BitVec.ofNat 32 a } = .next t1 ∧
      exec (command false) { t1 with dlen := BitVec.ofNat 32 b, din := d } = .next t2 ∧
      t1.err = .ok ∧ t2.err = .ok ∧ t2.slot k = t.slot k ∧
      (∀ i, i < a → t1.dout.read i = t.dout.read i) ∧ ∀ i, i < b → t2.dout.read i = t.dout.read (a + i)

/-- R116, R117: `ACPKM s, first`. Block `j` is under the working key evolved once for every section boundary before it,
counted from the position in the section; the section size is the latched one when continuing. -/
def Obligations.AcpkmResult : Prop :=
  ∀ (k : SlotId) (first : Bool) (s : State), s.dout.wf = true → (s.slot k).Inv →
    let sl := s.slot k
    let start := if first then ivCounter s sl.bs else sl.ctr
    let key := if first then sl.key else sl.wkey
    let size := if first then s.secsz else sl.secsz
    let pos := if first then 0 else sl.secpos.toNat
    let q := numBlocks sl.bs s.dlen.toNat
    let canContinue := first = true ∨ (sl.live = true ∧ sl.kind = .acpkm)
    let goodSection := first = true → s.secsz ≠ 0 ∧ s.secsz.toNat % sl.bs = 0
    (canContinue → sl.st = .keyed → s.dlen.toNat ≤ Config.machine.bufBytes → goodSection →
      (first = true → s.ivlen.toNat = sl.bs / 2) →
      ∃ d : Memory,
        d.Holds (fun a =>
          if a < s.dlen.toNat then
            s.din.read a ^^^
              keystreamByte Config.machine sl.bs16
                (evolved Config.machine sl.bs16 key ((pos + a / sl.bs * sl.bs) / size.toNat))
                (ctrAt sl.bs start (a / sl.bs)) (a % sl.bs)
          else s.dout.read a) ∧
        exec (.acpkm k first) s =
          .next (({ s with dout := d, err := .ok, verdict := false } : State).setSlot k
            { sl with
              ctr := ctrAt sl.bs start q
              live := decide (s.dlen.toNat % sl.bs = 0)
              kind := .acpkm
              wkey := evolved Config.machine sl.bs16 key (if q = 0 then 0 else (pos + (q - 1) * sl.bs) / size.toNat)
              secsz := size
              secpos := BitVec.ofNat 32 (if q = 0 then pos else (pos + (q - 1) * sl.bs) % size.toNat + sl.bs) })) ∧
    (¬ (canContinue ∧ sl.st = .keyed ∧ s.dlen.toNat ≤ Config.machine.bufBytes ∧ goodSection ∧
        (first = true → s.ivlen.toNat = sl.bs / 2)) →
      exec (.acpkm k first) s =
        .next (s.raise
          (if ¬ canContinue then .phaseViolation
           else if sl.st = .keyed ∧ s.dlen.toNat ≤ Config.machine.bufBytes ∧ goodSection then .invalidIVLength
           else .invalidParameter)))

/-- For the bytes before the section size the keystream of `ACPKM` equals plain CTR's (R117). -/
def Obligations.AcpkmFirstSectionEqualsCtr : Prop :=
  ∀ (k : SlotId) (s : State), s.dout.wf = true → (s.slot k).st = .keyed →
    s.dlen.toNat ≤ Config.machine.bufBytes → s.ivlen.toNat = (s.slot k).bs / 2 → s.secsz ≠ 0 →
    s.secsz.toNat % (s.slot k).bs = 0 →
    ∃ t u : State, exec (.ctr k true) s = .next t ∧ t.err = .ok ∧ exec (.acpkm k true) s = .next u ∧ u.err = .ok ∧
      (u.slot k).ctr = (t.slot k).ctr ∧ (u.slot k).key = (s.slot k).key ∧
      ∀ a, a < s.dlen.toNat → a < s.secsz.toNat → u.dout.read a = t.dout.read a

/-- R120: `OMAC s`. The blocks but the last are chained; the last, complete, is masked with `SK1`, and shorter, padded
with `0x80` and zeros, with `SK2`; the tag stands in the first `bs` bytes of `TAG` and the rest of `TAG` is zero. -/
def Obligations.OmacResult : Prop :=
  ∀ (k : SlotId) (s : State), s.tag.wf = true →
    let sl := s.slot k
    let enc := blockEnc Config.machine sl.bs16 sl.key
    let sk1 := dbl sl.bs16 (enc 0)
    let q := max 1 (numBlocks sl.bs s.dlen.toNat)
    let last := s.din.readBytes ((q - 1) * sl.bs) (s.dlen.toNat - (q - 1) * sl.bs)
    let masked :=
      if last.length = sl.bs then blockOf last ^^^ sk1
      else blockOf (last ++ [0x80] ++ List.replicate (sl.bs - last.length - 1) 0) ^^^ dbl sl.bs16 sk1
    let chained :=
      omacChained Config.machine sl.bs16 sl.key (fun j => blockOf (s.din.readBytes (j * sl.bs) sl.bs)) (q - 1)
    (sl.st = .keyed → s.dlen.toNat ≤ Config.machine.bufBytes →
      ∃ d : Memory,
        d.Holds (fun a =>
          if a < sl.bs then byteOf sl.bs (enc (chained ^^^ masked)) a else if a < 16 then 0 else s.tag.read a) ∧
        exec (.omac k) s = .next { s with tag := d, err := .ok, verdict := false }) ∧
    (¬ (sl.st = .keyed ∧ s.dlen.toNat ≤ Config.machine.bufBytes) →
      exec (.omac k) s = .next (s.raise .invalidParameter))

/-- R119: the doubling of OMAC, at both block sizes. -/
def Obligations.OmacDoubling : Prop :=
  (∀ v : BitVec 128, dbl true v = v <<< 1 ^^^ (if v.getLsbD 127 then 0x87 else 0)) ∧
  ∀ v : BitVec 64, dbl false (v.setWidth 128) = (v <<< 1 ^^^ (if v.getLsbD 63 then 0x1B else 0)).setWidth 128

/-- Key and mode commands never read or write the MGM session (R110; R91, R98, R195). -/
def Obligations.KeyAndModeCommandsIgnoreTheSession : Prop :=
  ∀ (i : Instr) (s t : State) (m : Session), (∃ k, keyCommandOn k i = true ∨ modeCommandOn k i = true) →
    exec i s = .next t → t.m = s.m ∧ exec i { s with m := m } = .next { t with m := m }

/-- A stream lives in its slot and survives every command that is neither a key-changing nor a stream command: those leave
both slots as they are, field by field (R202; R24, R28). -/
def Obligations.OtherCommandsLeaveSlotsAlone : Prop :=
  ∀ (i : Instr) (s t : State),
    i.opcode ∉ [Opcode.kcreate, .kset, .ksetrnd, .ksetpwd, .kdestroy, .ctr, .acpkm] →
    exec i s = .next t → ∀ k, t.slot k = s.slot k

/-! ### MGM streaming commands -/

/-- R135, R131: `MGMACLEAN ek, ak`, in every phase. -/
def Obligations.MgmacleanResult : Prop :=
  ∀ (ek ak : SlotId) (s : State), s.tag.wf = true →
    (UsableInMgm s ek → UsableInMgm s ak → s.ivlen.toNat < 16 →
      ∃ (d : Memory) (iv : Vector Byte 16),
        d.Holds (fun a => if a < 16 then 0 else s.tag.read a) ∧
        (∀ j : Fin 16, iv[j] = if j.val < s.ivlen.toNat then s.ivin.read j.val else 0) ∧
        exec (.mgmaclean ek ak) s =
          .next
            { s with
              tag := d
              m :=
                { phase := .auth
                  sum := 0
                  y := 0
                  z := blockEnc Config.machine true (s.slot ak).key
                    (BitVec.ofNat 128 (2 ^ 127 + be (s.ivin.readBytes 0 s.ivlen.toNat)))
                  abits := 0
                  pbits := 0
                  aclosed := false
                  eclosed := false
                  iv := iv
                  ivlen := BitVec.ofNat 5 s.ivlen.toNat
                  ek := ek
                  ak := ak }
              err := .ok
              verdict := false }) ∧
    (¬ (UsableInMgm s ek ∧ UsableInMgm s ak ∧ s.ivlen.toNat < 16) →
      exec (.mgmaclean ek ak) s =
        .next (s.raise (if UsableInMgm s ek ∧ UsableInMgm s ak then .invalidIVLength else .invalidParameter)))

/-- R136, R134: `MGMAUPD`. -/
def Obligations.MgmaupdResult : Prop :=
  ∀ s : State,
    let akey := (s.slot s.m.ak).key
    let q := numBlocks 16 s.alen.toNat
    let accepted := s.m.phase = .auth ∧ s.m.aclosed = false
    (accepted → s.alen.toNat ≤ Config.machine.bufBytes → UsableInMgm s s.m.ak →
      s.m.abits.toNat + 8 * s.alen.toNat ≤ 2 ^ 64 - 1 →
      exec .mgmaupd s =
        .next
          { s with
            m :=
              { s.m with
                sum := absorbedSum Config.machine akey s.m.z s.m.sum
                  (fun j => blockOf (pad16 (chunkBlock s.ain 16 s.alen.toNat j))) q
                z := Config.machine.incrZ^[q] s.m.z
                abits := BitVec.ofNat 64 (s.m.abits.toNat + 8 * s.alen.toNat)
                aclosed := decide (s.alen.toNat % 16 ≠ 0) }
            err := .ok
            verdict := false }) ∧
    (¬ (accepted ∧ s.alen.toNat ≤ Config.machine.bufBytes ∧ UsableInMgm s s.m.ak ∧
        s.m.abits.toNat + 8 * s.alen.toNat ≤ 2 ^ 64 - 1) →
      exec .mgmaupd s =
        .next (s.raise
          (if ¬ accepted then .phaseViolation
           else if s.alen.toNat ≤ Config.machine.bufBytes ∧ UsableInMgm s s.m.ak then .dataTooLong
           else .invalidParameter)))

/-- R137, R131: `MGMECLEAN`, with the IV latched by `MGMACLEAN`. -/
def Obligations.MgmecleanResult : Prop :=
  ∀ s : State,
    (s.m.phase = .auth → UsableInMgm s s.m.ek →
      exec .mgmeclean s =
        .next
          { s with
            m :=
              { s.m with
                phase := .enc
                y := blockEnc Config.machine true (s.slot s.m.ek).key
                  (BitVec.ofNat 128 (be (s.m.iv.toList.take s.m.ivlen.toNat)))
                pbits := 0
                eclosed := false }
            err := .ok
            verdict := false }) ∧
    (¬ (s.m.phase = .auth ∧ UsableInMgm s s.m.ek) →
      exec .mgmeclean s = .next (s.raise (if s.m.phase = .auth then .invalidParameter else .phaseViolation)))

/-- R139, R138: `MGMENC`. The bytes absorbed are those of the output. -/
def Obligations.MgmencResult : Prop :=
  ∀ s : State, s.dout.wf = true →
    let akey := (s.slot s.m.ak).key
    let q := numBlocks 16 s.dlen.toNat
    let accepted := s.m.phase = .enc ∧ s.m.eclosed = false
    let usable := UsableInMgm s s.m.ek ∧ UsableInMgm s s.m.ak
    (accepted → s.dlen.toNat ≤ Config.machine.bufBytes → usable →
      s.m.pbits.toNat + 8 * s.dlen.toNat ≤ 2 ^ 64 - 1 →
      ∃ d : Memory,
        d.Holds (fun a =>
          if a < s.dlen.toNat then
            s.din.read a ^^^
              keystreamByte Config.machine true (s.slot s.m.ek).key (Config.machine.incrY^[a / 16] s.m.y) (a % 16)
          else s.dout.read a) ∧
        exec .mgmenc s =
          .next
            { s with
              dout := d
              m :=
                { s.m with
                  sum := absorbedSum Config.machine akey s.m.z s.m.sum
                    (fun j => blockOf (pad16 (chunkBlock d 16 s.dlen.toNat j))) q
                  z := Config.machine.incrZ^[q] s.m.z
                  y := Config.machine.incrY^[q] s.m.y
                  pbits := BitVec.ofNat 64 (s.m.pbits.toNat + 8 * s.dlen.toNat)
                  eclosed := decide (s.dlen.toNat % 16 ≠ 0) }
              err := .ok
              verdict := false }) ∧
    (¬ (accepted ∧ s.dlen.toNat ≤ Config.machine.bufBytes ∧ usable ∧
        s.m.pbits.toNat + 8 * s.dlen.toNat ≤ 2 ^ 64 - 1) →
      exec .mgmenc s =
        .next (s.raise
          (if ¬ accepted then .phaseViolation
           else if s.dlen.toNat ≤ Config.machine.bufBytes ∧ usable then .dataTooLong
           else .invalidParameter)))

/-- R140, R138: `MGMDEC`. The bytes absorbed are those of `DIN`. -/
def Obligations.MgmdecResult : Prop :=
  ∀ s : State, s.dout.wf = true →
    let akey := (s.slot s.m.ak).key
    let q := numBlocks 16 s.dlen.toNat
    let accepted := s.m.phase = .enc ∧ s.m.eclosed = false
    let usable := UsableInMgm s s.m.ek ∧ UsableInMgm s s.m.ak
    (accepted → s.dlen.toNat ≤ Config.machine.bufBytes → usable →
      s.m.pbits.toNat + 8 * s.dlen.toNat ≤ 2 ^ 64 - 1 →
      ∃ d : Memory,
        d.Holds (fun a =>
          if a < s.dlen.toNat then
            s.din.read a ^^^
              keystreamByte Config.machine true (s.slot s.m.ek).key (Config.machine.incrY^[a / 16] s.m.y) (a % 16)
          else s.dout.read a) ∧
        exec .mgmdec s =
          .next
            { s with
              dout := d
              m :=
                { s.m with
                  sum := absorbedSum Config.machine akey s.m.z s.m.sum
                    (fun j => blockOf (pad16 (chunkBlock s.din 16 s.dlen.toNat j))) q
                  z := Config.machine.incrZ^[q] s.m.z
                  y := Config.machine.incrY^[q] s.m.y
                  pbits := BitVec.ofNat 64 (s.m.pbits.toNat + 8 * s.dlen.toNat)
                  eclosed := decide (s.dlen.toNat % 16 ≠ 0) }
              err := .ok
              verdict := false }) ∧
    (¬ (accepted ∧ s.dlen.toNat ≤ Config.machine.bufBytes ∧ usable ∧
        s.m.pbits.toNat + 8 * s.dlen.toNat ≤ 2 ^ 64 - 1) →
      exec .mgmdec s =
        .next (s.raise
          (if ¬ accepted then .phaseViolation
           else if s.dlen.toNat ≤ Config.machine.bufBytes ∧ usable then .dataTooLong
           else .invalidParameter)))

/-- R142 to R144: `MGMFIN taglen`. -/
def Obligations.MgmfinResult : Prop :=
  ∀ (taglen : Nat) (s : State), s.tag.wf = true →
    let enc := blockEnc Config.machine true (s.slot s.m.ak).key
    let lengths : Block := BitVec.ofNat 128 (s.m.abits.toNat * 2 ^ 64 + s.m.pbits.toNat)
    let sum := s.m.sum ^^^ Config.machine.gfmul (enc s.m.z) lengths
    let sessionOpen := s.m.phase = .auth ∨ s.m.phase = .enc
    (sessionOpen → 4 ≤ taglen → taglen ≤ 16 → UsableInMgm s s.m.ak →
      ∃ d : Memory,
        d.Holds (fun a =>
          if a < taglen then byteOf 16 (enc sum) a else if a < 16 then 0 else s.tag.read a) ∧
        exec (.mgmfin taglen) s =
          .next
            { s with
              tag := d
              m := { s.m with sum := sum, phase := .finalized }
              err := .ok
              verdict := false }) ∧
    (¬ (sessionOpen ∧ 4 ≤ taglen ∧ taglen ≤ 16 ∧ UsableInMgm s s.m.ak) →
      exec (.mgmfin taglen) s =
        .next (s.raise (if sessionOpen then .invalidParameter else .phaseViolation)))

/-- Splitting the associated data at a multiple of 16 changes nothing of the session (R136). -/
def Obligations.AssociatedDataChunksJoin : Prop :=
  ∀ (s t : State) (a b : Nat) (d : Memory), exec .mgmaupd s = .next t → t.err = .ok →
    s.alen.toNat = a + b → a % 16 = 0 → (∀ i, i < b → d.read i = s.ain.read (a + i)) →
    ∃ t1 t2 : State,
      exec .mgmaupd { s with alen := BitVec.ofNat 32 a } = .next t1 ∧
      exec .mgmaupd { t1 with alen := BitVec.ofNat 32 b, ain := d } = .next t2 ∧
      t1.err = .ok ∧ t2.err = .ok ∧ t2.m = t.m

/-- Splitting the data at a multiple of 16 changes neither the concatenated output nor the session, in either direction
(R139). -/
def Obligations.DataChunksJoin : Prop :=
  ∀ (i : Instr) (s t : State) (a b : Nat) (d : Memory), i = .mgmenc ∨ i = .mgmdec → s.dout.wf = true →
    exec i s = .next t → t.err = .ok →
    s.dlen.toNat = a + b → a % 16 = 0 → (∀ j, j < b → d.read j = s.din.read (a + j)) →
    ∃ t1 t2 : State,
      exec i { s with dlen := BitVec.ofNat 32 a } = .next t1 ∧
      exec i { t1 with dlen := BitVec.ofNat 32 b, din := d } = .next t2 ∧
      t1.err = .ok ∧ t2.err = .ok ∧ t2.m = t.m ∧
      (∀ j, j < a → t1.dout.read j = t.dout.read j) ∧ ∀ j, j < b → t2.dout.read j = t.dout.read (a + j)

/-- `MGMDEC` of what `MGMENC` produced, from the same session, gives the plaintext back and leaves the session exactly as
`MGMENC` did (R140). -/
def Obligations.MgmdecUndoesMgmenc : Prop :=
  ∀ s t : State, s.dout.wf = true → exec .mgmenc s = .next t → t.err = .ok →
    ∃ u : State, exec .mgmdec { s with din := t.dout } = .next u ∧ u.err = .ok ∧ u.m = t.m ∧
      ∀ a, a < s.dlen.toNat → u.dout.read a = s.din.read a

/-- R130: which MGM command is accepted in which phase and the phase after it; a command that fails, and every other
command, keeps the phase (R31). -/
def Obligations.PhaseTable : Prop :=
  ∀ (i : Instr) (s t : State), exec i s = .next t →
    ((∀ k f, i ≠ .ctr k f ∧ i ≠ .acpkm k f) → (t.err = .phaseViolation ↔ acceptedInPhase s.m i = false)) ∧
    t.m.phase = (if t.err = .ok ∨ t.err = .authenticationFailed then phaseAfter s.m i else s.m.phase)

/-- R141, R33: the counters count the true lengths of what was consumed since the session, or its data phase, began, and
never wrap; every other command leaves them. -/
def Obligations.CountersCountTrueLengths : Prop :=
  ∀ (i : Instr) (s t : State), exec i s = .next t →
    t.m.abits.toNat =
      (if t.err = .ok ∨ t.err = .authenticationFailed then
        match i with
        | .mgmaclean _ _ => 0
        | .mgmaupd => s.m.abits.toNat + 8 * s.alen.toNat
        | .mgmencall _ _ _ => 8 * s.alen.toNat
        | .mgmdecall _ _ _ => 8 * s.alen.toNat
        | _ => s.m.abits.toNat
       else s.m.abits.toNat) ∧
    t.m.pbits.toNat =
      (if t.err = .ok ∨ t.err = .authenticationFailed then
        match i with
        | .mgmaclean _ _ => 0
        | .mgmeclean => 0
        | .mgmenc => s.m.pbits.toNat + 8 * s.dlen.toNat
        | .mgmdec => s.m.pbits.toNat + 8 * s.dlen.toNat
        | .mgmencall _ _ _ => 8 * s.dlen.toNat
        | .mgmdecall _ _ _ => 8 * s.dlen.toNat
        | _ => s.m.pbits.toNat
       else s.m.pbits.toNat)

/-! ### MGM combined commands -/

/-- R161, R160: `MGMENCALL ek, ak, taglen`, by what it leaves in every element: the ciphertext under the keystream that
starts at the encrypted encryption seed, the tag over associated data, ciphertext and lengths, and the session. -/
def Obligations.MgmencallResult : Prop :=
  ∀ (ek ak : SlotId) (taglen : Nat) (s : State), s.dout.wf = true → s.tag.wf = true →
    let c := Config.machine
    let encE := blockEnc c true (s.slot ek).key
    let encA := blockEnc c true (s.slot ak).key
    let iv := be (s.ivin.readBytes 0 s.ivlen.toNat)
    let y := encE (BitVec.ofNat 128 iv)
    let z := encA (BitVec.ofNat 128 (2 ^ 127 + iv))
    let qa := numBlocks 16 s.alen.toNat
    let qd := numBlocks 16 s.dlen.toNat
    let zEnd := c.incrZ^[qd] (c.incrZ^[qa] z)
    let lengths : Block := BitVec.ofNat 128 (8 * s.alen.toNat * 2 ^ 64 + 8 * s.dlen.toNat)
    (PipelineReady c ek ak taglen s →
      ∃ (d g : Memory) (ivb : Vector Byte 16) (sum : Block),
        d.Holds (fun a =>
          if a < s.dlen.toNat then
            s.din.read a ^^^ keystreamByte c true (s.slot ek).key (c.incrY^[a / 16] y) (a % 16)
          else s.dout.read a) ∧
        (∀ j : Fin 16, ivb[j] = if j.val < s.ivlen.toNat then s.ivin.read j.val else 0) ∧
        sum =
          absorbedSum c (s.slot ak).key (c.incrZ^[qa] z)
            (absorbedSum c (s.slot ak).key z 0 (fun j => blockOf (pad16 (chunkBlock s.ain 16 s.alen.toNat j))) qa)
            (fun j => blockOf (pad16 (chunkBlock d 16 s.dlen.toNat j))) qd ^^^
          c.gfmul (encA zEnd) lengths ∧
        g.Holds (fun a => if a < taglen then byteOf 16 (encA sum) a else if a < 16 then 0 else s.tag.read a) ∧
        exec (.mgmencall ek ak taglen) s =
          .next
            { s with
              dout := d
              tag := g
              m :=
                { phase := .finalized
                  sum := sum
                  y := c.incrY^[qd] y
                  z := zEnd
                  abits := BitVec.ofNat 64 (8 * s.alen.toNat)
                  pbits := BitVec.ofNat 64 (8 * s.dlen.toNat)
                  aclosed := decide (s.alen.toNat % 16 ≠ 0)
                  eclosed := decide (s.dlen.toNat % 16 ≠ 0)
                  iv := ivb
                  ivlen := BitVec.ofNat 5 s.ivlen.toNat
                  ek := ek
                  ak := ak }
              err := .ok
              verdict := false }) ∧
    (¬ PipelineReady c ek ak taglen s →
      exec (.mgmencall ek ak taglen) s =
        .next (s.raise
          (if UsableInMgm s ek ∧ UsableInMgm s ak ∧ 4 ≤ taglen ∧ taglen ≤ 16 ∧ s.alen.toNat ≤ c.bufBytes ∧
              s.dlen.toNat ≤ c.bufBytes then .invalidIVLength
           else .invalidParameter)))

/-- R164: `MGMENCALL` leaves exactly the state of the five streaming commands in sequence. -/
def Obligations.MgmencallEqualsStreaming : Prop :=
  ∀ (ek ak : SlotId) (taglen : Nat) (s : State), PipelineReady Config.machine ek ak taglen s →
    ∃ s1 s2 s3 s4 t : State,
      exec (.mgmaclean ek ak) s = .next s1 ∧ s1.err = .ok ∧ exec .mgmaupd s1 = .next s2 ∧ s2.err = .ok ∧
      exec .mgmeclean s2 = .next s3 ∧ s3.err = .ok ∧ exec .mgmenc s3 = .next s4 ∧ s4.err = .ok ∧
      exec (.mgmfin taglen) s4 = .next t ∧ t.err = .ok ∧ exec (.mgmencall ek ak taglen) s = .next t

/-- R162, R164: `MGMDECALL` leaves the state of the streaming commands with `MGMDEC`, and sets `VERDICT`, when the first
`taglen` bytes of the recomputed tag are those of `TAGIN`; when they are not, it is `AuthenticationFailed` and
`DOUT[0 .. DLEN-1]` and `TAG` are zero. A check of the pipeline that fails changes nothing but the outcome. -/
def Obligations.MgmdecallResult : Prop :=
  ∀ (ek ak : SlotId) (taglen : Nat) (s : State), s.dout.wf = true → s.tag.wf = true →
    (PipelineReady Config.machine ek ak taglen s →
      ∃ (t : State) (d g : Memory),
        andThen (exec (.mgmaclean ek ak) s) (fun s1 => andThen (exec .mgmaupd s1) fun s2 =>
          andThen (exec .mgmeclean s2) fun s3 => andThen (exec .mgmdec s3) fun s4 => exec (.mgmfin taglen) s4) =
          .next t ∧
        t.err = .ok ∧
        d.Holds (fun a => if a < s.dlen.toNat then 0 else s.dout.read a) ∧
        g.Holds (fun a => if a < 16 then 0 else s.tag.read a) ∧
        exec (.mgmdecall ek ak taglen) s =
          .next
            (if ∀ i : Fin taglen, t.tag.read i.val = s.tagin.read i.val then { t with verdict := true }
             else { t with dout := d, tag := g, err := .authenticationFailed })) ∧
    (¬ PipelineReady Config.machine ek ak taglen s →
      exec (.mgmdecall ek ak taglen) s =
        .next (s.raise
          (if UsableInMgm s ek ∧ UsableInMgm s ak ∧ 4 ≤ taglen ∧ taglen ≤ 16 ∧
              s.alen.toNat ≤ Config.machine.bufBytes ∧ s.dlen.toNat ≤ Config.machine.bufBytes then .invalidIVLength
           else .invalidParameter)))

/-- The round trip (R164): decrypting the ciphertext with the tag that encrypting gave returns the plaintext with verdict
true, and leaves the same session. -/
def Obligations.CombinedRoundTrip : Prop :=
  ∀ (ek ak : SlotId) (taglen : Nat) (s : State), s.dout.wf = true → s.tag.wf = true →
    PipelineReady Config.machine ek ak taglen s →
    ∃ t u : State, exec (.mgmencall ek ak taglen) s = .next t ∧ t.err = .ok ∧
      exec (.mgmdecall ek ak taglen) { t with din := t.dout, tagin := t.tag } = .next u ∧
      u.err = .ok ∧ u.verdict = true ∧ u.m = t.m ∧ ∀ a, a < s.dlen.toNat → u.dout.read a = s.din.read a

/-- R200, R145: where `GFMUL(H, 0) = 0`, the tag of the empty message is the truncated `Enc(16, AKEY, 0)` whatever the IV,
by the combined command and by `MGMACLEAN; MGMFIN`. -/
def Obligations.EmptyMessageTag : Prop :=
  ∀ (c : Config) (ek ak : SlotId) (taglen : Nat) (s : State), (∀ h : Block, c.gfmul h 0 = 0) →
    s.tag.wf = true → PipelineReady c ek ak taglen s → s.alen = 0 → s.dlen = 0 →
    ∃ t u : State, execWith c (.mgmencall ek ak taglen) s = .next t ∧ t.err = .ok ∧
      andThen (execWith c (.mgmaclean ek ak) s) (execWith c (.mgmfin taglen)) = .next u ∧ u.err = .ok ∧
      ∀ a, a < 16 →
        t.tag.read a = (if a < taglen then byteOf 16 (blockEnc c true (s.slot ak).key 0) a else 0) ∧
        u.tag.read a = t.tag.read a

/-- R163: the tags match exactly when the `t` bytes are equal, wherever a difference stands. -/
def Obligations.TagDiffIsByteEquality : Prop :=
  ∀ (s : State) (t : Nat), s.tagDiff t = 0 ↔ ∀ i, i < t → s.tag.read i = s.tagin.read i

/-- The default of `GFMUL` has the laws of R12. The machine does not assume it (R206). -/
def Obligations.GfmulDefaultLaws : Prop :=
  ∀ a b d : Block,
    gfmulDefault a b = gfmulDefault b a ∧ gfmulDefault a 0 = 0 ∧ gfmulDefault a 1 = a ∧
    gfmulDefault a (b ^^^ d) = gfmulDefault a b ^^^ gfmulDefault a d
end

