-- ==== Sys2Proof/Laws/AnyConfig.lean ====
section
/-! SUPPORT. The machine is the engine over any configuration, taken at `Config.machine`. -/

namespace Sys2Proof.Machine

open Sys2Proof

theorem exec_eq_execWith (i : Instr) (s : State) : exec i s = execWith Config.machine i s := by
  cases i <;> rfl

theorem step_eq_stepWith (s : State) : step s = stepWith Config.machine s := by
  have h : exec = execWith Config.machine := by
    funext i t
    exact exec_eq_execWith i t
  rw [step, stepWith, h]

end Sys2Proof.Machine
end

