-- ==== Sys2Proof/Laws/Memory.lean ====
section
/-! SUPPORT. The laws of the buffers: what a read after a write gives, that every write keeps the canonical form and
the bound, and that two canonical contents that read the same are the same. -/

namespace Sys2Proof.Machine

open Sys2Proof

/-! ### One byte -/

theorem Memory.read_cellFor_append (a : Nat) (v : Byte) (m : Memory) (x : Nat) :
    Memory.read (cellFor a v ++ m) x =
      if x = a then (if v = unlistedByte then Memory.read m x else v) else Memory.read m x := by
  unfold cellFor
  split <;> by_cases h : x = a <;> simp_all [Memory.read]

/-- A canonical buffer whose entries all lie above an offset reads as unlisted there. -/
theorem Memory.read_of_lt_all {m : Memory} {a : Nat} (h : m.all (fun c => decide (a < c.1)) = true) :
    m.read a = unlistedByte := by
  induction m with
  | nil => rfl
  | cons c m ih =>
    obtain ⟨b, v⟩ := c
    simp only [List.all_cons, Bool.and_eq_true, decide_eq_true_eq] at h
    have : a ≠ b := Nat.ne_of_lt h.1
    simp [Memory.read, this, ih h.2]

theorem all_gt_trans {m : Memory} {a b : Nat} (hab : a < b)
    (h : m.all (fun c => decide (b < c.1)) = true) : m.all (fun c => decide (a < c.1)) = true := by
  simp only [List.all_eq_true, decide_eq_true_eq] at *
  intro c hc
  have := h c hc
  omega

/-- Reading one byte after writing one byte of a canonical buffer. -/
theorem Memory.read_write {m : Memory} (hm : m.wf = true) (a : Nat) (v : Byte) (x : Nat) :
    (m.write a v).read x = if x = a then v else m.read x := by
  induction m with
  | nil =>
    have := Memory.read_cellFor_append a v [] x
    rw [List.append_nil] at this
    rw [show Memory.write [] a v = cellFor a v from rfl, this]
    by_cases h : x = a <;> by_cases hv : v = unlistedByte <;> simp_all [Memory.read]
  | cons c m ih =>
    obtain ⟨b, w⟩ := c
    simp only [Memory.wf, Bool.and_eq_true] at hm
    obtain ⟨⟨_, hgt⟩, hwf⟩ := hm
    unfold Memory.write
    split
    · rename_i hab
      rw [Memory.read_cellFor_append]
      by_cases hx : x = a
      · subst hx
        have h0 : Memory.read ((b, w) :: m) x = unlistedByte := by
          have : x ≠ b := by omega
          simp only [Memory.read, this, if_false]
          exact Memory.read_of_lt_all (all_gt_trans hab hgt)
        by_cases hv : v = unlistedByte <;> simp [h0, hv]
      · simp [hx]
    · split
      · rename_i hne heq
        subst heq
        rw [Memory.read_cellFor_append]
        by_cases hx : x = a
        · subst hx
          have h0 := Memory.read_of_lt_all hgt
          by_cases hv : v = unlistedByte <;> simp [h0, hv]
        · simp [hx, Memory.read]
      · rename_i h1 h2
        simp only [Memory.read, ih hwf]
        by_cases hx : x = b
        · have : x ≠ a := by omega
          simp [hx]
          omega
        · simp [hx]

theorem Memory.all_write {m : Memory} {p : Host.Cell → Bool} {a : Nat} {v : Byte}
    (hm : m.all p = true) (ha : p (a, v) = true) : (m.write a v).all p = true := by
  have hc : (cellFor a v).all p = true := by
    unfold cellFor; split <;> simp [ha]
  induction m with
  | nil => exact hc
  | cons c m ih =>
    obtain ⟨b, w⟩ := c
    simp only [List.all_cons, Bool.and_eq_true] at hm
    unfold Memory.write
    split
    · simp [hc, hm.1, hm.2]
    · split
      · simp [hc, hm.2]
      · simp [hm.1, ih hm.2]

theorem Memory.wf_cellFor_append {m : Memory} {a : Nat} (v : Byte) (hm : m.wf = true)
    (h : m.all (fun c => decide (a < c.1)) = true) : Memory.wf (cellFor a v ++ m) = true := by
  unfold cellFor
  split
  · simpa using hm
  · rename_i hv
    simp [Memory.wf, hm, h, hv]

/-- A write keeps the canonical form. -/
theorem Memory.wf_write {m : Memory} (hm : m.wf = true) (a : Nat) (v : Byte) : (m.write a v).wf = true := by
  induction m with
  | nil =>
    have := Memory.wf_cellFor_append (m := []) (a := a) v rfl rfl
    rwa [List.append_nil] at this
  | cons c m ih =>
    obtain ⟨b, w⟩ := c
    have hm' := hm
    simp only [Memory.wf, Bool.and_eq_true] at hm
    obtain ⟨⟨hw, hgt⟩, hwf⟩ := hm
    unfold Memory.write
    split
    · rename_i hab
      refine Memory.wf_cellFor_append v hm' ?_
      simp only [List.all_cons, hab, decide_true, Bool.true_and]
      exact all_gt_trans hab hgt
    · split
      · rename_i hne heq
        subst heq
        exact Memory.wf_cellFor_append v hwf hgt
      · rename_i h1 h2
        simp only [Memory.wf, Bool.and_eq_true]
        exact ⟨⟨hw, Memory.all_write hgt (by simp only [decide_eq_true_eq]; omega)⟩, ih hwf⟩

/-- A write inside a buffer of `n` bytes keeps it inside. -/
theorem Memory.within_write {m : Memory} {n a : Nat} (hm : m.within n = true) (ha : a < n) (v : Byte) :
    (m.write a v).within n = true :=
  Memory.all_write hm (by simpa using ha)

/-- Two canonical contents that read the same at every offset are the same. -/
theorem Memory.ext_of_read {m m' : Memory} (hm : m.wf = true) (hm' : m'.wf = true)
    (h : ∀ a, m.read a = m'.read a) : m = m' := by
  induction m generalizing m' with
  | nil =>
    cases m' with
    | nil => rfl
    | cons c t =>
      obtain ⟨b, v⟩ := c
      simp only [Memory.wf, Bool.and_eq_true, bne_iff_ne] at hm'
      have := h b
      simp only [Memory.read, if_true] at this
      exact absurd this.symm hm'.1.1
  | cons c t ih =>
    obtain ⟨a, v⟩ := c
    cases m' with
    | nil =>
      simp only [Memory.wf, Bool.and_eq_true, bne_iff_ne] at hm
      have := h a
      simp only [Memory.read, if_true] at this
      exact absurd this hm.1.1
    | cons c' t' =>
      obtain ⟨b, w⟩ := c'
      simp only [Memory.wf, Bool.and_eq_true, bne_iff_ne] at hm hm'
      obtain ⟨⟨hv, hgt⟩, hwf⟩ := hm
      obtain ⟨⟨hw, hgt'⟩, hwf'⟩ := hm'
      have hab : a = b := by
        rcases Nat.lt_trichotomy a b with hlt | heq | hlt
        · have h1 := h a
          have hne : a ≠ b := by omega
          simp only [Memory.read, if_true, hne, if_false,
            Memory.read_of_lt_all (all_gt_trans hlt hgt')] at h1
          exact absurd h1 hv
        · exact heq
        · have h1 := h b
          have hne : b ≠ a := by omega
          simp only [Memory.read, if_true, hne, if_false,
            Memory.read_of_lt_all (all_gt_trans hlt hgt)] at h1
          exact absurd h1.symm hw
      subst hab
      have hvw : v = w := by simpa [Memory.read] using h a
      subst hvw
      have : t = t' := by
        refine ih hwf hwf' fun x => ?_
        by_cases hx : x = a
        · subst hx
          rw [Memory.read_of_lt_all hgt, Memory.read_of_lt_all hgt']
        · simpa [Memory.read, hx] using h x
      rw [this]

/-! ### Several bytes -/

@[simp] theorem Memory.length_readBytes (m : Memory) (off k : Nat) : (m.readBytes off k).length = k := by
  induction k generalizing off with
  | zero => rfl
  | succ k ih => simp [Memory.readBytes, ih]

theorem Memory.getElem_readBytes (m : Memory) (off k i : Nat) (h : i < (m.readBytes off k).length) :
    (m.readBytes off k)[i] = m.read (off + i) := by
  induction k generalizing off i with
  | zero => simp [Memory.readBytes] at h
  | succ k ih =>
    cases i with
    | zero => rfl
    | succ i =>
      simp only [Memory.readBytes, List.getElem_cons_succ]
      rw [ih]
      congr 1
      omega

theorem Memory.getD_readBytes (m : Memory) (off k i : Nat) (h : i < k) (d : Byte) :
    (m.readBytes off k).getD i d = m.read (off + i) := by
  have h' : i < (m.readBytes off k).length := by simpa using h
  rw [List.getD_eq_getElem _ _ h', Memory.getElem_readBytes]

/-- Two runs of bytes are equal when they read the same, byte by byte. -/
theorem Memory.readBytes_congr {m m' : Memory} {off off' k : Nat}
    (h : ∀ i, i < k → m.read (off + i) = m'.read (off' + i)) : m.readBytes off k = m'.readBytes off' k := by
  apply List.ext_getElem (by simp)
  intro i h1 h2
  rw [Memory.getElem_readBytes, Memory.getElem_readBytes]
  exact h i (by simpa using h1)

theorem Memory.readBytes_add (m : Memory) (off j k : Nat) :
    m.readBytes off (j + k) = m.readBytes off j ++ m.readBytes (off + j) k := by
  induction j generalizing off with
  | zero => simp [Memory.readBytes]
  | succ j ih =>
    rw [Nat.succ_add, Memory.readBytes, ih, Memory.readBytes, List.cons_append]
    congr 3
    omega

theorem Memory.take_readBytes (m : Memory) (off j k : Nat) :
    (m.readBytes off k).take j = m.readBytes off (min j k) := by
  apply List.ext_getElem (by simp)
  intro i h1 h2
  rw [List.getElem_take, Memory.getElem_readBytes, Memory.getElem_readBytes]

theorem Memory.drop_readBytes (m : Memory) (off j k : Nat) :
    (m.readBytes off k).drop j = m.readBytes (off + j) (k - j) := by
  apply List.ext_getElem (by simp)
  intro i h1 h2
  rw [List.getElem_drop, Memory.getElem_readBytes, Memory.getElem_readBytes]
  congr 1
  omega

/-- `MemWrite` keeps the canonical form. -/
theorem Memory.wf_writeBytes {m : Memory} (hm : m.wf = true) (off : Nat) (b : List Byte) :
    (m.writeBytes off b).wf = true := by
  induction b generalizing m off with
  | nil => exact hm
  | cons x b ih => exact ih (Memory.wf_write hm off x) (off + 1)

/-- `MemWrite` inside a buffer keeps it inside. -/
theorem Memory.within_writeBytes {m : Memory} {n off : Nat} {b : List Byte} (hm : m.within n = true)
    (h : off + b.length ≤ n) : (m.writeBytes off b).within n = true := by
  induction b generalizing m off with
  | nil => exact hm
  | cons x b ih =>
    simp only [List.length_cons] at h
    exact ih (Memory.within_write hm (by omega) x) (by omega)

/-- Reading one byte after `MemWrite(space, off, b)`. -/
theorem Memory.read_writeBytes {m : Memory} (hm : m.wf = true) (off : Nat) (b : List Byte) (x : Nat) :
    (m.writeBytes off b).read x =
      if off ≤ x ∧ x < off + b.length then b.getD (x - off) 0 else m.read x := by
  induction b generalizing m off with
  | nil =>
    have : ¬ (off ≤ x ∧ x < off + ([] : List Byte).length) := by simp
    simp only [Memory.writeBytes, this, if_false]
  | cons y b ih =>
    rw [Memory.writeBytes, ih (Memory.wf_write hm off y), Memory.read_write hm]
    simp only [List.length_cons]
    by_cases h1 : off + 1 ≤ x ∧ x < off + 1 + b.length
    · have h2 : off ≤ x ∧ x < off + (b.length + 1) := by omega
      rw [if_pos h1, if_pos h2, show x - off = (x - (off + 1)) + 1 by omega, List.getD_cons_succ]
    · rw [if_neg h1]
      by_cases h3 : x = off
      · subst h3
        have h2 : x ≤ x ∧ x < x + (b.length + 1) := by omega
        rw [if_pos rfl, if_pos h2, Nat.sub_self, List.getD_cons_zero]
      · have h2 : ¬ (off ≤ x ∧ x < off + (b.length + 1)) := by omega
        rw [if_neg h3, if_neg h2]

theorem Memory.read_writeBytes_inside {m : Memory} (hm : m.wf = true) {off : Nat} {b : List Byte} {i : Nat}
    (h : i < b.length) : (m.writeBytes off b).read (off + i) = b.getD i 0 := by
  rw [Memory.read_writeBytes hm, if_pos (by omega), Nat.add_sub_cancel_left]

theorem Memory.read_writeBytes_outside {m : Memory} (hm : m.wf = true) {off : Nat} {b : List Byte} {x : Nat}
    (h : x < off ∨ off + b.length ≤ x) : (m.writeBytes off b).read x = m.read x := by
  rw [Memory.read_writeBytes hm, if_neg (by omega)]

/-- Reading back what was written. -/
theorem Memory.readBytes_writeBytes {m : Memory} (hm : m.wf = true) (off : Nat) (b : List Byte) :
    (m.writeBytes off b).readBytes off b.length = b := by
  apply List.ext_getElem (by simp)
  intro i h1 h2
  rw [Memory.getElem_readBytes, Memory.read_writeBytes_inside hm h2, List.getD_eq_getElem _ _ h2]

end Sys2Proof.Machine
end

