-- ==== Sys2Proof/Laws/Bytes.lean ====
section
/-! SUPPORT. The laws of byte sequences and block values: the big-endian map and its inverse, and the blocks of a
sequence by index. -/

namespace Sys2Proof.Machine

open Sys2Proof

/-! ### The big-endian map -/

theorem be_foldl (acc : Nat) (b : List Byte) :
    b.foldl (fun acc x => acc * 256 + x.toNat) acc = acc * 256 ^ b.length + be b := by
  unfold be
  induction b generalizing acc with
  | nil => simp
  | cons x b ih =>
    simp only [List.foldl_cons, List.length_cons]
    rw [ih, ih (0 * 256 + x.toNat)]
    ring

theorem be_cons (x : Byte) (b : List Byte) : be (x :: b) = x.toNat * 256 ^ b.length + be b := by
  have := be_foldl (0 * 256 + x.toNat) b
  simpa [be] using this

theorem be_append (a b : List Byte) : be (a ++ b) = be a * 256 ^ b.length + be b := by
  unfold be
  rw [List.foldl_append]
  exact be_foldl _ b

theorem be_lt (b : List Byte) : be b < 256 ^ b.length := by
  induction b with
  | nil => simp [be]
  | cons x b ih =>
    rw [be_cons, List.length_cons, Nat.pow_succ]
    have hx : x.toNat ≤ 255 := by have := x.isLt; omega
    have := Nat.mul_le_mul_right (256 ^ b.length) hx
    omega

@[simp] theorem length_bytesOf (k v : Nat) : (bytesOf k v).length = k := by
  induction k with
  | zero => rfl
  | succ k ih => simp [bytesOf, ih]

/-- The inverse of the big-endian map, one way: the low `8k` bits come back. -/
theorem be_bytesOf (k v : Nat) : be (bytesOf k v) = v % 256 ^ k := by
  induction k with
  | zero => simp [bytesOf, be, Nat.mod_one]
  | succ k ih =>
    rw [bytesOf, be_cons, length_bytesOf, ih, BitVec.toNat_ofNat, pow_succ (256 : Nat) k, Nat.mod_mul]
    rw [show (2 : Nat) ^ 8 = 256 from rfl, Nat.mul_comm, Nat.add_comm]

theorem bytesOf_mod (k v : Nat) : bytesOf k (v % 256 ^ k) = bytesOf k v := by
  induction k generalizing v with
  | zero => rfl
  | succ k ih =>
    have h1 : v % 256 ^ (k + 1) % 256 ^ k = v % 256 ^ k :=
      Nat.mod_mod_of_dvd v (Nat.pow_dvd_pow 256 (Nat.le_succ k))
    have h2 : BitVec.ofNat 8 (v % 256 ^ (k + 1) / 256 ^ k) = BitVec.ofNat 8 (v / 256 ^ k) := by
      apply BitVec.eq_of_toNat_eq
      rw [BitVec.toNat_ofNat, BitVec.toNat_ofNat, pow_succ (256 : Nat) k, Nat.mod_mul_right_div_self]
      exact Nat.mod_mod _ _
    rw [bytesOf, bytesOf, h2, ← ih (v % 256 ^ (k + 1)), h1, ih]

/-- The inverse of the big-endian map, the other way. -/
theorem bytesOf_be (b : List Byte) : bytesOf b.length (be b) = b := by
  induction b with
  | nil => rfl
  | cons x b ih =>
    have hlt := be_lt b
    have hpos : 0 < 256 ^ b.length := Nat.pow_pos (by decide)
    rw [List.length_cons, bytesOf, be_cons]
    have h1 : (x.toNat * 256 ^ b.length + be b) / 256 ^ b.length = x.toNat := by
      rw [Nat.mul_comm, Nat.mul_add_div hpos, Nat.div_eq_of_lt hlt, Nat.add_zero]
    have h2 : bytesOf b.length (x.toNat * 256 ^ b.length + be b) = b := by
      rw [← bytesOf_mod, Nat.mul_comm, Nat.mul_add_mod, Nat.mod_eq_of_lt hlt, ih]
    rw [h1, h2]
    simp

theorem toNat_blockOf {b : List Byte} (h : b.length ≤ 16) : (blockOf b).toNat = be b := by
  have h1 := be_lt b
  have h2 : (256 : Nat) ^ b.length ≤ 256 ^ 16 := Nat.pow_le_pow_right (by decide) h
  have h3 : (256 : Nat) ^ 16 = 2 ^ 128 := by norm_num
  rw [blockOf, BitVec.toNat_ofNat, Nat.mod_eq_of_lt (by omega)]

/-- A block written out again gives the bytes it was read from. -/
theorem bytesOf_blockOf {b : List Byte} {k : Nat} (hk : b.length = k) (h : k ≤ 16) :
    bytesOf k (blockOf b).toNat = b := by
  subst hk
  rw [toNat_blockOf h, bytesOf_be]

theorem blockOf_bytesOf_16 (x : Block) : blockOf (bytesOf 16 x.toNat) = x := by
  apply BitVec.eq_of_toNat_eq
  rw [toNat_blockOf (by simp), be_bytesOf, Nat.mod_eq_of_lt]
  have := x.isLt
  norm_num at this ⊢
  exact this

@[simp] theorem length_zeros (k : Nat) : (zeros k).length = k := by simp [zeros]

theorem getD_zeros (k i : Nat) : (zeros k).getD i 0 = 0 := by
  simp only [zeros, List.getD_eq_getElem?_getD, List.getElem?_replicate]
  split <;> rfl

theorem length_pad16 {b : List Byte} (h : b.length ≤ 16) : (pad16 b).length = 16 := by
  simp [pad16]; omega

theorem pad16_of_length {b : List Byte} (h : b.length = 16) : pad16 b = b := by
  simp [pad16, h, zeros]

/-! ### Bytewise xor -/

@[simp] theorem length_xorBytes (a b : List Byte) : (xorBytes a b).length = min a.length b.length := by
  simp [xorBytes]

theorem getD_xorBytes {a b : List Byte} {i : Nat} (ha : i < a.length) (hb : i < b.length) :
    (xorBytes a b).getD i 0 = a.getD i 0 ^^^ b.getD i 0 := by
  have h : i < (xorBytes a b).length := by simp; omega
  rw [List.getD_eq_getElem _ _ h, List.getD_eq_getElem _ _ ha, List.getD_eq_getElem _ _ hb]
  simp [xorBytes]

/-- The keystream applied twice gives the data back. -/
theorem xorBytes_xorBytes {a ks : List Byte} (h : a.length ≤ ks.length) : xorBytes (xorBytes a ks) ks = a := by
  apply List.ext_getElem (by simp; omega)
  intro i h1 h2
  simp [xorBytes]

/-! ### Blocks -/

theorem blocksUpTo_fuel {bs : Nat} (hbs : 0 < bs) {n m : Nat} {b : List Byte} (hn : b.length ≤ n)
    (hm : b.length ≤ m) : blocksUpTo bs n b = blocksUpTo bs m b := by
  induction n generalizing m b with
  | zero =>
    have : b = [] := List.length_eq_zero_iff.mp (by omega)
    subst this
    cases m <;> rfl
  | succ n ih =>
    cases b with
    | nil => cases m <;> rfl
    | cons x xs =>
      simp only [List.length_cons] at hn hm
      cases m with
      | zero => omega
      | succ m =>
        simp only [blocksUpTo]
        rw [ih (b := (x :: xs).drop bs) (m := m) (by simp; omega) (by simp; omega)]

@[simp] theorem blocks_nil (bs : Nat) : blocks bs [] = [] := rfl

/-- The first block and the rest. -/
theorem blocks_of_ne_nil {bs : Nat} (hbs : 0 < bs) {b : List Byte} (hb : b ≠ []) :
    blocks bs b = b.take bs :: blocks bs (b.drop bs) := by
  cases b with
  | nil => exact absurd rfl hb
  | cons x xs =>
    unfold blocks
    simp only [List.length_cons, blocksUpTo]
    rw [blocksUpTo_fuel hbs (b := (x :: xs).drop bs) (m := ((x :: xs).drop bs).length) (by simp; omega) le_rfl]

/-- Cutting at a multiple of the block size cuts between blocks. -/
theorem blocks_append {bs : Nat} (hbs : 0 < bs) (a b : List Byte) (ha : a.length % bs = 0) :
    blocks bs (a ++ b) = blocks bs a ++ blocks bs b := by
  obtain ⟨q, hq⟩ := Nat.dvd_of_mod_eq_zero ha
  induction q generalizing a with
  | zero =>
    have : a = [] := List.length_eq_zero_iff.mp (by simpa using hq)
    simp [this]
  | succ q ih =>
    have hlen : bs ≤ a.length := by rw [hq]; exact Nat.le_mul_of_pos_right bs (Nat.succ_pos q)
    have hne : a ≠ [] := by intro h; subst h; simp at hlen; omega
    have hdrop : (a.drop bs).length = bs * q := by
      rw [List.length_drop, hq, Nat.mul_succ, Nat.add_sub_cancel]
    rw [blocks_of_ne_nil hbs (by simp [hne]), blocks_of_ne_nil hbs hne, List.take_append_of_le_length hlen,
      List.drop_append_of_le_length hlen, ih _ (by rw [hdrop]; exact Nat.mul_mod_right _ _) hdrop,
      List.cons_append]

/-- How many blocks `len` bytes make. -/
theorem length_blocks {bs : Nat} (hbs : 0 < bs) (b : List Byte) :
    (blocks bs b).length = (b.length + bs - 1) / bs := by
  induction h : b.length using Nat.strong_induction_on generalizing b with
  | _ n ih =>
    subst h
    by_cases hb : b = []
    · subst hb
      simp only [blocks_nil, List.length_nil, Nat.zero_add]
      exact (Nat.div_eq_of_lt (by omega)).symm
    · have hpos : 0 < b.length := List.length_pos_of_ne_nil hb
      rw [blocks_of_ne_nil hbs hb, List.length_cons, ih _ (by simp; omega) _ rfl, List.length_drop]
      by_cases hle : bs ≤ b.length
      · rw [show b.length + bs - 1 = (b.length - bs + bs - 1) + bs by omega, Nat.add_div_right _ hbs]
      · rw [show b.length - bs + bs - 1 = bs - 1 by omega, Nat.div_eq_of_lt (show bs - 1 < bs by omega),
          show b.length + bs - 1 = (b.length - 1) + bs by omega, Nat.add_div_right _ hbs,
          Nat.div_eq_of_lt (by omega)]

/-- Block number `j`. -/
theorem getElem_blocks {bs : Nat} (hbs : 0 < bs) (b : List Byte) (j : Nat) (h : j < (blocks bs b).length) :
    (blocks bs b)[j] = (b.drop (j * bs)).take bs := by
  induction j generalizing b with
  | zero =>
    by_cases hb : b = []
    · subst hb; simp at h
    · simp [blocks_of_ne_nil hbs hb]
  | succ j ih =>
    by_cases hb : b = []
    · subst hb; simp at h
    · simp only [blocks_of_ne_nil hbs hb] at h ⊢
      rw [List.getElem_cons_succ, ih, List.drop_drop]
      congr 2
      ring

/-- Putting the blocks together again. -/
theorem flatten_blocks {bs : Nat} (hbs : 0 < bs) (b : List Byte) : (blocks bs b).flatten = b := by
  induction h : b.length using Nat.strong_induction_on generalizing b with
  | _ n ih =>
    subst h
    by_cases hb : b = []
    · subst hb; simp
    · have hpos : 0 < b.length := List.length_pos_of_ne_nil hb
      rw [blocks_of_ne_nil hbs hb, List.flatten_cons, ih _ (by simp; omega) _ rfl, List.take_append_drop]

theorem length_le_of_mem_blocks {bs : Nat} (hbs : 0 < bs) {b x : List Byte} (hx : x ∈ blocks bs b) :
    x.length ≤ bs := by
  obtain ⟨j, hj, rfl⟩ := List.getElem_of_mem hx
  rw [getElem_blocks hbs]
  simp

@[simp] theorem length_chunkBlock (m : Memory) (bs len j : Nat) :
    (chunkBlock m bs len j).length = min bs (len - j * bs) := by simp [chunkBlock]

/-- The blocks of a chunk that is read from a buffer, by index. -/
theorem blocks_readBytes {bs : Nat} (hbs : 0 < bs) (m : Memory) (len : Nat) :
    blocks bs (m.readBytes 0 len) = (List.range (numBlocks bs len)).map (chunkBlock m bs len) := by
  apply List.ext_getElem
  · simp [length_blocks hbs, numBlocks]
  · intro j h1 h2
    rw [getElem_blocks hbs, Memory.drop_readBytes, Memory.take_readBytes]
    simp [chunkBlock]

theorem chunkBlock_full {m : Memory} {bs len j : Nat} (h : len % bs = 0) (hj : j < len / bs) :
    chunkBlock m bs len j = m.readBytes (j * bs) bs := by
  have h1 : bs * (len / bs) = len := Nat.mul_div_cancel' (Nat.dvd_of_mod_eq_zero h)
  have h2 : bs * (j + 1) ≤ bs * (len / bs) := Nat.mul_le_mul_left bs hj
  have h3 : bs ≤ len - j * bs := by
    rw [Nat.mul_succ, Nat.mul_comm bs j] at h2
    omega
  rw [chunkBlock, Nat.min_eq_left h3]

theorem numBlocks_of_mod {bs len : Nat} (hbs : 0 < bs) (h : len % bs = 0) : numBlocks bs len = len / bs := by
  obtain ⟨q, rfl⟩ := Nat.dvd_of_mod_eq_zero h
  rw [numBlocks, Nat.add_sub_assoc hbs, Nat.mul_add_div hbs, Nat.div_eq_of_lt (by omega),
    Nat.mul_div_cancel_left q hbs, Nat.add_zero]

end Sys2Proof.Machine
end

