-- ==== Sys2Proof/Laws/State.lean ====
section
/-! SUPPORT. The small lemmas of `State`'s named updates: one lemma per field per update, so that no proof unfolds a
record update; and of the accessors of slots and buffers. -/

namespace Sys2Proof.Machine

open Sys2Proof

/-! ### `State.raise` -/

@[simp] theorem State.raise_alen (s : State) (e : ErrCode) : (s.raise e).alen = s.alen := rfl
@[simp] theorem State.raise_dlen (s : State) (e : ErrCode) : (s.raise e).dlen = s.dlen := rfl
@[simp] theorem State.raise_klen (s : State) (e : ErrCode) : (s.raise e).klen = s.klen := rfl
@[simp] theorem State.raise_ivlen (s : State) (e : ErrCode) : (s.raise e).ivlen = s.ivlen := rfl
@[simp] theorem State.raise_secsz (s : State) (e : ErrCode) : (s.raise e).secsz = s.secsz := rfl
@[simp] theorem State.raise_err (s : State) (e : ErrCode) : (s.raise e).err = e := rfl
@[simp] theorem State.raise_verdict (s : State) (e : ErrCode) : (s.raise e).verdict = false := rfl
@[simp] theorem State.raise_k0 (s : State) (e : ErrCode) : (s.raise e).k0 = s.k0 := rfl
@[simp] theorem State.raise_k1 (s : State) (e : ErrCode) : (s.raise e).k1 = s.k1 := rfl
@[simp] theorem State.raise_m (s : State) (e : ErrCode) : (s.raise e).m = s.m := rfl
@[simp] theorem State.raise_ivin (s : State) (e : ErrCode) : (s.raise e).ivin = s.ivin := rfl
@[simp] theorem State.raise_keyin (s : State) (e : ErrCode) : (s.raise e).keyin = s.keyin := rfl
@[simp] theorem State.raise_tagin (s : State) (e : ErrCode) : (s.raise e).tagin = s.tagin := rfl
@[simp] theorem State.raise_tag (s : State) (e : ErrCode) : (s.raise e).tag = s.tag := rfl
@[simp] theorem State.raise_ain (s : State) (e : ErrCode) : (s.raise e).ain = s.ain := rfl
@[simp] theorem State.raise_din (s : State) (e : ErrCode) : (s.raise e).din = s.din := rfl
@[simp] theorem State.raise_dout (s : State) (e : ErrCode) : (s.raise e).dout = s.dout := rfl
@[simp] theorem State.raise_draws (s : State) (e : ErrCode) : (s.raise e).draws = s.draws := rfl
@[simp] theorem State.raise_pending (s : State) (e : ErrCode) : (s.raise e).pending = s.pending := rfl
@[simp] theorem State.raise_reply (s : State) (e : ErrCode) : (s.raise e).reply = s.reply := rfl

/-! ### `State.finish` -/

@[simp] theorem State.finish_alen (s : State) : s.finish.alen = s.alen := rfl
@[simp] theorem State.finish_dlen (s : State) : s.finish.dlen = s.dlen := rfl
@[simp] theorem State.finish_klen (s : State) : s.finish.klen = s.klen := rfl
@[simp] theorem State.finish_ivlen (s : State) : s.finish.ivlen = s.ivlen := rfl
@[simp] theorem State.finish_secsz (s : State) : s.finish.secsz = s.secsz := rfl
@[simp] theorem State.finish_err (s : State) : s.finish.err = .ok := rfl
@[simp] theorem State.finish_verdict (s : State) : s.finish.verdict = false := rfl
@[simp] theorem State.finish_k0 (s : State) : s.finish.k0 = s.k0 := rfl
@[simp] theorem State.finish_k1 (s : State) : s.finish.k1 = s.k1 := rfl
@[simp] theorem State.finish_m (s : State) : s.finish.m = s.m := rfl
@[simp] theorem State.finish_ivin (s : State) : s.finish.ivin = s.ivin := rfl
@[simp] theorem State.finish_keyin (s : State) : s.finish.keyin = s.keyin := rfl
@[simp] theorem State.finish_tagin (s : State) : s.finish.tagin = s.tagin := rfl
@[simp] theorem State.finish_tag (s : State) : s.finish.tag = s.tag := rfl
@[simp] theorem State.finish_ain (s : State) : s.finish.ain = s.ain := rfl
@[simp] theorem State.finish_din (s : State) : s.finish.din = s.din := rfl
@[simp] theorem State.finish_dout (s : State) : s.finish.dout = s.dout := rfl
@[simp] theorem State.finish_draws (s : State) : s.finish.draws = s.draws := rfl
@[simp] theorem State.finish_pending (s : State) : s.finish.pending = s.pending := rfl
@[simp] theorem State.finish_reply (s : State) : s.finish.reply = s.reply := rfl

/-! ### `State.finishVerified` -/

@[simp] theorem State.finishVerified_alen (s : State) : s.finishVerified.alen = s.alen := rfl
@[simp] theorem State.finishVerified_dlen (s : State) : s.finishVerified.dlen = s.dlen := rfl
@[simp] theorem State.finishVerified_klen (s : State) : s.finishVerified.klen = s.klen := rfl
@[simp] theorem State.finishVerified_ivlen (s : State) : s.finishVerified.ivlen = s.ivlen := rfl
@[simp] theorem State.finishVerified_secsz (s : State) : s.finishVerified.secsz = s.secsz := rfl
@[simp] theorem State.finishVerified_err (s : State) : s.finishVerified.err = .ok := rfl
@[simp] theorem State.finishVerified_verdict (s : State) : s.finishVerified.verdict = true := rfl
@[simp] theorem State.finishVerified_k0 (s : State) : s.finishVerified.k0 = s.k0 := rfl
@[simp] theorem State.finishVerified_k1 (s : State) : s.finishVerified.k1 = s.k1 := rfl
@[simp] theorem State.finishVerified_m (s : State) : s.finishVerified.m = s.m := rfl
@[simp] theorem State.finishVerified_ivin (s : State) : s.finishVerified.ivin = s.ivin := rfl
@[simp] theorem State.finishVerified_keyin (s : State) : s.finishVerified.keyin = s.keyin := rfl
@[simp] theorem State.finishVerified_tagin (s : State) : s.finishVerified.tagin = s.tagin := rfl
@[simp] theorem State.finishVerified_tag (s : State) : s.finishVerified.tag = s.tag := rfl
@[simp] theorem State.finishVerified_ain (s : State) : s.finishVerified.ain = s.ain := rfl
@[simp] theorem State.finishVerified_din (s : State) : s.finishVerified.din = s.din := rfl
@[simp] theorem State.finishVerified_dout (s : State) : s.finishVerified.dout = s.dout := rfl
@[simp] theorem State.finishVerified_draws (s : State) : s.finishVerified.draws = s.draws := rfl
@[simp] theorem State.finishVerified_pending (s : State) : s.finishVerified.pending = s.pending := rfl
@[simp] theorem State.finishVerified_reply (s : State) : s.finishVerified.reply = s.reply := rfl

/-! ### `State.drawn` -/

@[simp] theorem State.drawn_alen (s : State) : s.drawn.alen = s.alen := rfl
@[simp] theorem State.drawn_dlen (s : State) : s.drawn.dlen = s.dlen := rfl
@[simp] theorem State.drawn_klen (s : State) : s.drawn.klen = s.klen := rfl
@[simp] theorem State.drawn_ivlen (s : State) : s.drawn.ivlen = s.ivlen := rfl
@[simp] theorem State.drawn_secsz (s : State) : s.drawn.secsz = s.secsz := rfl
@[simp] theorem State.drawn_err (s : State) : s.drawn.err = s.err := rfl
@[simp] theorem State.drawn_verdict (s : State) : s.drawn.verdict = s.verdict := rfl
@[simp] theorem State.drawn_k0 (s : State) : s.drawn.k0 = s.k0 := rfl
@[simp] theorem State.drawn_k1 (s : State) : s.drawn.k1 = s.k1 := rfl
@[simp] theorem State.drawn_m (s : State) : s.drawn.m = s.m := rfl
@[simp] theorem State.drawn_ivin (s : State) : s.drawn.ivin = s.ivin := rfl
@[simp] theorem State.drawn_keyin (s : State) : s.drawn.keyin = s.keyin := rfl
@[simp] theorem State.drawn_tagin (s : State) : s.drawn.tagin = s.tagin := rfl
@[simp] theorem State.drawn_tag (s : State) : s.drawn.tag = s.tag := rfl
@[simp] theorem State.drawn_ain (s : State) : s.drawn.ain = s.ain := rfl
@[simp] theorem State.drawn_din (s : State) : s.drawn.din = s.din := rfl
@[simp] theorem State.drawn_dout (s : State) : s.drawn.dout = s.dout := rfl
@[simp] theorem State.drawn_draws (s : State) : s.drawn.draws = s.draws + 1 := rfl
@[simp] theorem State.drawn_pending (s : State) : s.drawn.pending = s.pending := rfl
@[simp] theorem State.drawn_reply (s : State) : s.drawn.reply = s.reply := rfl

/-! ### `State.setSession` -/

@[simp] theorem State.setSession_alen (s : State) (m : Session) : (s.setSession m).alen = s.alen := rfl
@[simp] theorem State.setSession_dlen (s : State) (m : Session) : (s.setSession m).dlen = s.dlen := rfl
@[simp] theorem State.setSession_klen (s : State) (m : Session) : (s.setSession m).klen = s.klen := rfl
@[simp] theorem State.setSession_ivlen (s : State) (m : Session) : (s.setSession m).ivlen = s.ivlen := rfl
@[simp] theorem State.setSession_secsz (s : State) (m : Session) : (s.setSession m).secsz = s.secsz := rfl
@[simp] theorem State.setSession_err (s : State) (m : Session) : (s.setSession m).err = s.err := rfl
@[simp] theorem State.setSession_verdict (s : State) (m : Session) : (s.setSession m).verdict = s.verdict := rfl
@[simp] theorem State.setSession_k0 (s : State) (m : Session) : (s.setSession m).k0 = s.k0 := rfl
@[simp] theorem State.setSession_k1 (s : State) (m : Session) : (s.setSession m).k1 = s.k1 := rfl
@[simp] theorem State.setSession_m (s : State) (m : Session) : (s.setSession m).m = m := rfl
@[simp] theorem State.setSession_ivin (s : State) (m : Session) : (s.setSession m).ivin = s.ivin := rfl
@[simp] theorem State.setSession_keyin (s : State) (m : Session) : (s.setSession m).keyin = s.keyin := rfl
@[simp] theorem State.setSession_tagin (s : State) (m : Session) : (s.setSession m).tagin = s.tagin := rfl
@[simp] theorem State.setSession_tag (s : State) (m : Session) : (s.setSession m).tag = s.tag := rfl
@[simp] theorem State.setSession_ain (s : State) (m : Session) : (s.setSession m).ain = s.ain := rfl
@[simp] theorem State.setSession_din (s : State) (m : Session) : (s.setSession m).din = s.din := rfl
@[simp] theorem State.setSession_dout (s : State) (m : Session) : (s.setSession m).dout = s.dout := rfl
@[simp] theorem State.setSession_draws (s : State) (m : Session) : (s.setSession m).draws = s.draws := rfl
@[simp] theorem State.setSession_pending (s : State) (m : Session) : (s.setSession m).pending = s.pending := rfl
@[simp] theorem State.setSession_reply (s : State) (m : Session) : (s.setSession m).reply = s.reply := rfl

/-! ### `State.writeDout` -/

@[simp] theorem State.writeDout_alen (s : State) (b : List Byte) : (s.writeDout b).alen = s.alen := rfl
@[simp] theorem State.writeDout_dlen (s : State) (b : List Byte) : (s.writeDout b).dlen = s.dlen := rfl
@[simp] theorem State.writeDout_klen (s : State) (b : List Byte) : (s.writeDout b).klen = s.klen := rfl
@[simp] theorem State.writeDout_ivlen (s : State) (b : List Byte) : (s.writeDout b).ivlen = s.ivlen := rfl
@[simp] theorem State.writeDout_secsz (s : State) (b : List Byte) : (s.writeDout b).secsz = s.secsz := rfl
@[simp] theorem State.writeDout_err (s : State) (b : List Byte) : (s.writeDout b).err = s.err := rfl
@[simp] theorem State.writeDout_verdict (s : State) (b : List Byte) : (s.writeDout b).verdict = s.verdict := rfl
@[simp] theorem State.writeDout_k0 (s : State) (b : List Byte) : (s.writeDout b).k0 = s.k0 := rfl
@[simp] theorem State.writeDout_k1 (s : State) (b : List Byte) : (s.writeDout b).k1 = s.k1 := rfl
@[simp] theorem State.writeDout_m (s : State) (b : List Byte) : (s.writeDout b).m = s.m := rfl
@[simp] theorem State.writeDout_ivin (s : State) (b : List Byte) : (s.writeDout b).ivin = s.ivin := rfl
@[simp] theorem State.writeDout_keyin (s : State) (b : List Byte) : (s.writeDout b).keyin = s.keyin := rfl
@[simp] theorem State.writeDout_tagin (s : State) (b : List Byte) : (s.writeDout b).tagin = s.tagin := rfl
@[simp] theorem State.writeDout_tag (s : State) (b : List Byte) : (s.writeDout b).tag = s.tag := rfl
@[simp] theorem State.writeDout_ain (s : State) (b : List Byte) : (s.writeDout b).ain = s.ain := rfl
@[simp] theorem State.writeDout_din (s : State) (b : List Byte) : (s.writeDout b).din = s.din := rfl
@[simp] theorem State.writeDout_dout (s : State) (b : List Byte) : (s.writeDout b).dout = s.dout.writeBytes 0 b := rfl
@[simp] theorem State.writeDout_draws (s : State) (b : List Byte) : (s.writeDout b).draws = s.draws := rfl
@[simp] theorem State.writeDout_pending (s : State) (b : List Byte) : (s.writeDout b).pending = s.pending := rfl
@[simp] theorem State.writeDout_reply (s : State) (b : List Byte) : (s.writeDout b).reply = s.reply := rfl

/-! ### `State.writeTag` -/

@[simp] theorem State.writeTag_alen (s : State) (b : List Byte) : (s.writeTag b).alen = s.alen := rfl
@[simp] theorem State.writeTag_dlen (s : State) (b : List Byte) : (s.writeTag b).dlen = s.dlen := rfl
@[simp] theorem State.writeTag_klen (s : State) (b : List Byte) : (s.writeTag b).klen = s.klen := rfl
@[simp] theorem State.writeTag_ivlen (s : State) (b : List Byte) : (s.writeTag b).ivlen = s.ivlen := rfl
@[simp] theorem State.writeTag_secsz (s : State) (b : List Byte) : (s.writeTag b).secsz = s.secsz := rfl
@[simp] theorem State.writeTag_err (s : State) (b : List Byte) : (s.writeTag b).err = s.err := rfl
@[simp] theorem State.writeTag_verdict (s : State) (b : List Byte) : (s.writeTag b).verdict = s.verdict := rfl
@[simp] theorem State.writeTag_k0 (s : State) (b : List Byte) : (s.writeTag b).k0 = s.k0 := rfl
@[simp] theorem State.writeTag_k1 (s : State) (b : List Byte) : (s.writeTag b).k1 = s.k1 := rfl
@[simp] theorem State.writeTag_m (s : State) (b : List Byte) : (s.writeTag b).m = s.m := rfl
@[simp] theorem State.writeTag_ivin (s : State) (b : List Byte) : (s.writeTag b).ivin = s.ivin := rfl
@[simp] theorem State.writeTag_keyin (s : State) (b : List Byte) : (s.writeTag b).keyin = s.keyin := rfl
@[simp] theorem State.writeTag_tagin (s : State) (b : List Byte) : (s.writeTag b).tagin = s.tagin := rfl
@[simp] theorem State.writeTag_tag (s : State) (b : List Byte) : (s.writeTag b).tag = s.tag.writeBytes 0 b := rfl
@[simp] theorem State.writeTag_ain (s : State) (b : List Byte) : (s.writeTag b).ain = s.ain := rfl
@[simp] theorem State.writeTag_din (s : State) (b : List Byte) : (s.writeTag b).din = s.din := rfl
@[simp] theorem State.writeTag_dout (s : State) (b : List Byte) : (s.writeTag b).dout = s.dout := rfl
@[simp] theorem State.writeTag_draws (s : State) (b : List Byte) : (s.writeTag b).draws = s.draws := rfl
@[simp] theorem State.writeTag_pending (s : State) (b : List Byte) : (s.writeTag b).pending = s.pending := rfl
@[simp] theorem State.writeTag_reply (s : State) (b : List Byte) : (s.writeTag b).reply = s.reply := rfl

/-! ### `State.accept` -/

@[simp] theorem State.accept_alen (s : State) (rest : List Transaction) : (s.accept rest).alen = s.alen := rfl
@[simp] theorem State.accept_dlen (s : State) (rest : List Transaction) : (s.accept rest).dlen = s.dlen := rfl
@[simp] theorem State.accept_klen (s : State) (rest : List Transaction) : (s.accept rest).klen = s.klen := rfl
@[simp] theorem State.accept_ivlen (s : State) (rest : List Transaction) : (s.accept rest).ivlen = s.ivlen := rfl
@[simp] theorem State.accept_secsz (s : State) (rest : List Transaction) : (s.accept rest).secsz = s.secsz := rfl
@[simp] theorem State.accept_err (s : State) (rest : List Transaction) : (s.accept rest).err = s.err := rfl
@[simp] theorem State.accept_verdict (s : State) (rest : List Transaction) : (s.accept rest).verdict = s.verdict := rfl
@[simp] theorem State.accept_k0 (s : State) (rest : List Transaction) : (s.accept rest).k0 = s.k0 := rfl
@[simp] theorem State.accept_k1 (s : State) (rest : List Transaction) : (s.accept rest).k1 = s.k1 := rfl
@[simp] theorem State.accept_m (s : State) (rest : List Transaction) : (s.accept rest).m = s.m := rfl
@[simp] theorem State.accept_ivin (s : State) (rest : List Transaction) : (s.accept rest).ivin = s.ivin := rfl
@[simp] theorem State.accept_keyin (s : State) (rest : List Transaction) : (s.accept rest).keyin = s.keyin := rfl
@[simp] theorem State.accept_tagin (s : State) (rest : List Transaction) : (s.accept rest).tagin = s.tagin := rfl
@[simp] theorem State.accept_tag (s : State) (rest : List Transaction) : (s.accept rest).tag = s.tag := rfl
@[simp] theorem State.accept_ain (s : State) (rest : List Transaction) : (s.accept rest).ain = s.ain := rfl
@[simp] theorem State.accept_din (s : State) (rest : List Transaction) : (s.accept rest).din = s.din := rfl
@[simp] theorem State.accept_dout (s : State) (rest : List Transaction) : (s.accept rest).dout = s.dout := rfl
@[simp] theorem State.accept_draws (s : State) (rest : List Transaction) : (s.accept rest).draws = s.draws := rfl
@[simp] theorem State.accept_pending (s : State) (rest : List Transaction) : (s.accept rest).pending = rest := rfl
@[simp] theorem State.accept_reply (s : State) (rest : List Transaction) : (s.accept rest).reply = none := rfl

/-! ### `State.setSlot` -/

@[simp] theorem State.setSlot_alen (s : State) (k : SlotId) (sl : Slot) : (s.setSlot k sl).alen = s.alen := by
  cases k <;> rfl
@[simp] theorem State.setSlot_dlen (s : State) (k : SlotId) (sl : Slot) : (s.setSlot k sl).dlen = s.dlen := by
  cases k <;> rfl
@[simp] theorem State.setSlot_klen (s : State) (k : SlotId) (sl : Slot) : (s.setSlot k sl).klen = s.klen := by
  cases k <;> rfl
@[simp] theorem State.setSlot_ivlen (s : State) (k : SlotId) (sl : Slot) : (s.setSlot k sl).ivlen = s.ivlen := by
  cases k <;> rfl
@[simp] theorem State.setSlot_secsz (s : State) (k : SlotId) (sl : Slot) : (s.setSlot k sl).secsz = s.secsz := by
  cases k <;> rfl
@[simp] theorem State.setSlot_err (s : State) (k : SlotId) (sl : Slot) : (s.setSlot k sl).err = s.err := by
  cases k <;> rfl
@[simp] theorem State.setSlot_verdict (s : State) (k : SlotId) (sl : Slot) : (s.setSlot k sl).verdict = s.verdict := by
  cases k <;> rfl
@[simp] theorem State.setSlot_m (s : State) (k : SlotId) (sl : Slot) : (s.setSlot k sl).m = s.m := by
  cases k <;> rfl
@[simp] theorem State.setSlot_ivin (s : State) (k : SlotId) (sl : Slot) : (s.setSlot k sl).ivin = s.ivin := by
  cases k <;> rfl
@[simp] theorem State.setSlot_keyin (s : State) (k : SlotId) (sl : Slot) : (s.setSlot k sl).keyin = s.keyin := by
  cases k <;> rfl
@[simp] theorem State.setSlot_tagin (s : State) (k : SlotId) (sl : Slot) : (s.setSlot k sl).tagin = s.tagin := by
  cases k <;> rfl
@[simp] theorem State.setSlot_tag (s : State) (k : SlotId) (sl : Slot) : (s.setSlot k sl).tag = s.tag := by
  cases k <;> rfl
@[simp] theorem State.setSlot_ain (s : State) (k : SlotId) (sl : Slot) : (s.setSlot k sl).ain = s.ain := by
  cases k <;> rfl
@[simp] theorem State.setSlot_din (s : State) (k : SlotId) (sl : Slot) : (s.setSlot k sl).din = s.din := by
  cases k <;> rfl
@[simp] theorem State.setSlot_dout (s : State) (k : SlotId) (sl : Slot) : (s.setSlot k sl).dout = s.dout := by
  cases k <;> rfl
@[simp] theorem State.setSlot_draws (s : State) (k : SlotId) (sl : Slot) : (s.setSlot k sl).draws = s.draws := by
  cases k <;> rfl
@[simp] theorem State.setSlot_pending (s : State) (k : SlotId) (sl : Slot) : (s.setSlot k sl).pending = s.pending := by
  cases k <;> rfl
@[simp] theorem State.setSlot_reply (s : State) (k : SlotId) (sl : Slot) : (s.setSlot k sl).reply = s.reply := by
  cases k <;> rfl

@[simp] theorem State.slot_setSlot (s : State) (k : SlotId) (sl : Slot) : (s.setSlot k sl).slot k = sl := by
  cases k <;> rfl

@[simp] theorem State.slot_setSlot_other (s : State) (k : SlotId) (sl : Slot) :
    (s.setSlot k sl).slot k.other = s.slot k.other := by
  cases k <;> rfl

@[simp] theorem State.slot_setSlot_of_other (s : State) (k : SlotId) (sl : Slot) :
    (s.setSlot k.other sl).slot k = s.slot k := by
  cases k <;> rfl

theorem State.slot_setSlot_of_ne (s : State) {k k' : SlotId} (sl : Slot) (h : k' ≠ k) :
    (s.setSlot k sl).slot k' = s.slot k' := by
  cases k <;> cases k' <;> first | rfl | exact absurd rfl h

@[simp] theorem State.setSlot_slot (s : State) (k : SlotId) : s.setSlot k (s.slot k) = s := by
  cases k <;> rfl

@[simp] theorem State.setSlot_setSlot (s : State) (k : SlotId) (a b : Slot) :
    (s.setSlot k a).setSlot k b = s.setSlot k b := by
  cases k <;> rfl

/-! ### The slots under the other updates -/

@[simp] theorem State.raise_slot (s : State) (e : ErrCode) (k : SlotId) : (s.raise e).slot k = s.slot k := by
  cases k <;> rfl
@[simp] theorem State.finish_slot (s : State) (k : SlotId) : s.finish.slot k = s.slot k := by
  cases k <;> rfl
@[simp] theorem State.finishVerified_slot (s : State) (k : SlotId) : s.finishVerified.slot k = s.slot k := by
  cases k <;> rfl
@[simp] theorem State.drawn_slot (s : State) (k : SlotId) : s.drawn.slot k = s.slot k := by
  cases k <;> rfl
@[simp] theorem State.setSession_slot (s : State) (m : Session) (k : SlotId) : (s.setSession m).slot k = s.slot k := by
  cases k <;> rfl
@[simp] theorem State.writeDout_slot (s : State) (b : List Byte) (k : SlotId) : (s.writeDout b).slot k = s.slot k := by
  cases k <;> rfl
@[simp] theorem State.writeTag_slot (s : State) (b : List Byte) (k : SlotId) : (s.writeTag b).slot k = s.slot k := by
  cases k <;> rfl
@[simp] theorem State.accept_slot (s : State) (rest : List Transaction) (k : SlotId) : (s.accept rest).slot k = s.slot k := by
  cases k <;> rfl

/-! ### `State.setBuf` -/

@[simp] theorem State.setBuf_alen (s : State) (sp : Space) (b : Memory) : (s.setBuf sp b).alen = s.alen := by
  cases sp <;> rfl
@[simp] theorem State.setBuf_dlen (s : State) (sp : Space) (b : Memory) : (s.setBuf sp b).dlen = s.dlen := by
  cases sp <;> rfl
@[simp] theorem State.setBuf_klen (s : State) (sp : Space) (b : Memory) : (s.setBuf sp b).klen = s.klen := by
  cases sp <;> rfl
@[simp] theorem State.setBuf_ivlen (s : State) (sp : Space) (b : Memory) : (s.setBuf sp b).ivlen = s.ivlen := by
  cases sp <;> rfl
@[simp] theorem State.setBuf_secsz (s : State) (sp : Space) (b : Memory) : (s.setBuf sp b).secsz = s.secsz := by
  cases sp <;> rfl
@[simp] theorem State.setBuf_err (s : State) (sp : Space) (b : Memory) : (s.setBuf sp b).err = s.err := by
  cases sp <;> rfl
@[simp] theorem State.setBuf_verdict (s : State) (sp : Space) (b : Memory) : (s.setBuf sp b).verdict = s.verdict := by
  cases sp <;> rfl
@[simp] theorem State.setBuf_k0 (s : State) (sp : Space) (b : Memory) : (s.setBuf sp b).k0 = s.k0 := by
  cases sp <;> rfl
@[simp] theorem State.setBuf_k1 (s : State) (sp : Space) (b : Memory) : (s.setBuf sp b).k1 = s.k1 := by
  cases sp <;> rfl
@[simp] theorem State.setBuf_m (s : State) (sp : Space) (b : Memory) : (s.setBuf sp b).m = s.m := by
  cases sp <;> rfl
@[simp] theorem State.setBuf_draws (s : State) (sp : Space) (b : Memory) : (s.setBuf sp b).draws = s.draws := by
  cases sp <;> rfl
@[simp] theorem State.setBuf_pending (s : State) (sp : Space) (b : Memory) : (s.setBuf sp b).pending = s.pending := by
  cases sp <;> rfl
@[simp] theorem State.setBuf_reply (s : State) (sp : Space) (b : Memory) : (s.setBuf sp b).reply = s.reply := by
  cases sp <;> rfl

@[simp] theorem State.buf_setBuf (s : State) (sp : Space) (b : Memory) : (s.setBuf sp b).buf sp = b := by
  cases sp <;> rfl

theorem State.buf_setBuf_of_ne (s : State) {sp sp' : Space} (b : Memory) (h : sp' ≠ sp) :
    (s.setBuf sp b).buf sp' = s.buf sp' := by
  cases sp <;> cases sp' <;> first | rfl | exact absurd rfl h

/-! ### `State.install` -/

theorem State.install_eq (s : State) (k : SlotId) (key : Key) :
    s.install k key = s.setSlot k ((s.slot k).install key) := rfl

@[simp] theorem State.slot_install (s : State) (k : SlotId) (key : Key) :
    (s.install k key).slot k = (s.slot k).install key := by
  cases k <;> rfl

@[simp] theorem State.slot_install_other (s : State) (k : SlotId) (key : Key) :
    (s.install k key).slot k.other = s.slot k.other := by
  cases k <;> rfl

@[simp] theorem slotId_other_other (k : SlotId) : k.other.other = k := by
  cases k <;> rfl

theorem slotId_other_ne (k : SlotId) : k.other ≠ k := by
  cases k <;> decide

end Sys2Proof.Machine
end

