-- ==== Sys2Proof/Laws/Ops.lean ====
section
/-! SUPPORT. What the shared operations can do, said once: the checks of a command, the two ways a command ends, the
block cipher of a slot, and the sizes of the buffers. -/

namespace Sys2Proof.Machine

open Sys2Proof

/-! ### Checks and commands -/

theorem firstFailing_eq_none_iff {cs : List (Bool × ErrCode)} :
    firstFailing cs = none ↔ ∀ p ∈ cs, p.1 = false := by
  induction cs with
  | nil => simp [firstFailing]
  | cons p cs ih =>
    obtain ⟨b, e⟩ := p
    cases b <;> simp [firstFailing, ih]

/-- An error that is reported is one of the list's, and its condition holds. -/
theorem firstFailing_some {cs : List (Bool × ErrCode)} {e : ErrCode} (h : firstFailing cs = some e) :
    (true, e) ∈ cs := by
  induction cs with
  | nil => simp [firstFailing] at h
  | cons p cs ih =>
    obtain ⟨b, e'⟩ := p
    cases b
    · simp only [firstFailing] at h
      exact List.mem_cons_of_mem _ (ih h)
    · simp only [firstFailing, if_true, Option.some.injEq] at h
      subst h
      exact List.mem_cons_self

/-- A command that answers a next state either raised the first failing check and changed nothing else, or passed
every check and ran its whole Effect. -/
theorem State.command_cases {s t : State} {cs : List (Bool × ErrCode)} {effect : State → State}
    (h : s.command cs effect = .next t) :
    (∃ e, firstFailing cs = some e ∧ t = s.raise e) ∨ (firstFailing cs = none ∧ t = (effect s).finish) := by
  unfold State.command at h
  split at h
  · rename_i e he
    exact .inl ⟨e, he, by injection h with h; exact h.symm⟩
  · rename_i he
    exact .inr ⟨he, by injection h with h; exact h.symm⟩

theorem State.command_of_pass {s : State} {cs : List (Bool × ErrCode)} (effect : State → State)
    (h : firstFailing cs = none) : s.command cs effect = .next (effect s).finish := by
  simp [State.command, h]

theorem State.command_of_fail {s : State} {cs : List (Bool × ErrCode)} {e : ErrCode} (effect : State → State)
    (h : firstFailing cs = some e) : s.command cs effect = .next (s.raise e) := by
  simp [State.command, h]

/-- A command always answers a next state. -/
theorem State.command_next (s : State) (cs : List (Bool × ErrCode)) (effect : State → State) :
    ∃ t, s.command cs effect = .next t := by
  unfold State.command
  split <;> exact ⟨_, rfl⟩

/-! ### The block cipher -/

theorem Slot.bs_pos (sl : Slot) : 0 < sl.bs := by
  unfold Slot.bs; split <;> decide

theorem Slot.bs_le (sl : Slot) : sl.bs ≤ 16 := by
  unfold Slot.bs; split <;> decide

theorem Slot.bs_cases (sl : Slot) : (sl.bs16 = true ∧ sl.bs = 16) ∨ (sl.bs16 = false ∧ sl.bs = 8) := by
  unfold Slot.bs; cases sl.bs16 <;> simp

/-- Every answer of the block cipher has the width of the block. -/
theorem blockEnc_lt (c : Config) (sl : Slot) (key : Key) (x : Block) :
    (blockEnc c sl.bs16 key x).toNat < 2 ^ (8 * sl.bs) := by
  rcases sl.bs_cases with ⟨h, hb⟩ | ⟨h, hb⟩
  · rw [h, hb]; exact BitVec.isLt _
  · rw [h, hb]
    simp only [blockEnc, Bool.false_eq_true, if_false, BitVec.toNat_setWidth]
    have := (c.cipherA key (x.setWidth 64)).isLt
    rw [Nat.mod_eq_of_lt (by omega)]
    exact this

/-- `Dec` undoes `Enc` on a value of the block's width (R10). -/
theorem blockDec_blockEnc (c : Config) (sl : Slot) (key : Key) {x : Block} (hx : x.toNat < 2 ^ (8 * sl.bs)) :
    blockDec c sl.bs16 key (blockEnc c sl.bs16 key x) = x := by
  rcases sl.bs_cases with ⟨h, hb⟩ | ⟨h, hb⟩
  · simp [h, blockDec, blockEnc]
  · rw [hb] at hx
    simp only [h, blockDec, blockEnc, Bool.false_eq_true, if_false]
    rw [BitVec.setWidth_setWidth_of_le _ (by decide), BitVec.setWidth_eq, Equiv.symm_apply_apply]
    apply BitVec.eq_of_toNat_eq
    simp only [BitVec.toNat_setWidth]
    omega

theorem blockOf_lt {b : List Byte} {k : Nat} (h : b.length = k) (hk : k ≤ 16) :
    (blockOf b).toNat < 2 ^ (8 * k) := by
  subst h
  rw [toNat_blockOf hk, Nat.pow_mul]
  exact be_lt b

theorem bytesOf_blockOf_bs (sl : Slot) {b : List Byte} (h : b.length = sl.bs) :
    bytesOf sl.bs (blockOf b).toNat = b :=
  bytesOf_blockOf h sl.bs_le

/-- A value of the block's width is recovered from its bytes. -/
theorem blockOf_bytesOf (sl : Slot) {x : Block} (hx : x.toNat < 2 ^ (8 * sl.bs)) :
    blockOf (bytesOf sl.bs x.toNat) = x := by
  apply BitVec.eq_of_toNat_eq
  rw [toNat_blockOf (by simpa using sl.bs_le), be_bytesOf, Nat.mod_eq_of_lt]
  rw [show (256 : Nat) = 2 ^ 8 from rfl, ← Nat.pow_mul]
  exact hx

/-! ### Sizes -/

theorem bufBytes_bounds (c : Config) : 64 ≤ c.bufBytes ∧ c.bufBytes < 2 ^ 32 ∧ c.bufBytes % 16 = 0 := by
  have := c.bufUnits.isLt
  unfold Config.bufBytes
  omega

end Sys2Proof.Machine
end

