-- ==== Sys2Proof/Laws/Cipher.lean ====
section
/-! SUPPORT. What the shared procedures of the cipher modes compute, block by block: ECB, the counter stream under a
fixed key and under an evolving key, and the OMAC chain. -/

namespace Sys2Proof.Machine

open Sys2Proof

/-! ### Pieces of equal length put together -/

theorem length_flatten_pieces {bs q : Nat} {f : Nat → List Byte} (hf : ∀ j, j < q → (f j).length = bs) :
    ((List.range q).map f).flatten.length = q * bs := by
  induction q with
  | zero => simp
  | succ q ih =>
    rw [List.range_succ, List.map_append, List.flatten_append, List.length_append,
      ih (fun j hj => hf j (by omega))]
    simp [hf q (by omega), Nat.succ_mul]

/-- Pieces of `bs` bytes each but the last, which may be shorter: byte `i` is byte `i % bs` of piece `i / bs`. -/
theorem getD_flatten_pieces {bs q i : Nat} {f : Nat → List Byte}
    (hf : ∀ j, j + 1 < q → (f j).length = bs) (hlast : ∀ j, j < q → (f j).length ≤ bs)
    (hi : i < ((List.range q).map f).flatten.length) :
    ((List.range q).map f).flatten.getD i 0 = (f (i / bs)).getD (i % bs) 0 ∧ i / bs < q ∧
      i % bs < (f (i / bs)).length := by
  induction q with
  | zero => simp at hi
  | succ q ih =>
    have hlen : ((List.range q).map f).flatten.length = q * bs :=
      length_flatten_pieces fun j hj => hf j (by omega)
    rw [List.range_succ, List.map_append, List.flatten_append] at hi ⊢
    simp only [List.map_cons, List.map_nil, List.flatten_cons, List.flatten_nil, List.append_nil,
      List.length_append] at hi ⊢
    by_cases hlt : i < ((List.range q).map f).flatten.length
    · obtain ⟨h1, h2, h3⟩ := ih (fun j hj => hf j (by omega)) (fun j hj => hlast j (by omega)) hlt
      rw [List.getD_append _ _ _ _ hlt]
      exact ⟨h1, by omega, h3⟩
    · rw [List.getD_append_right _ _ _ _ (by omega)]
      have hl := hlast q (by omega)
      have hsub : i - q * bs < (f q).length := by omega
      have hdiv : i / bs = q := Nat.div_eq_of_lt_le (by omega) (by rw [Nat.succ_mul]; omega)
      have hmod : i % bs = i - q * bs := by
        have := Nat.div_add_mod i bs
        rw [hdiv, Nat.mul_comm] at this
        omega
      rw [hdiv, hmod, hlen]
      exact ⟨rfl, by omega, hsub⟩

/-! ### ECB -/

/-- ECB over a chunk of whole blocks: the transformed blocks in order. -/
theorem ecb_readBytes {bs : Nat} (hbs : 0 < bs) (f : Block → Block) (m : Memory) {len : Nat} (h : len % bs = 0) :
    ecb f bs (m.readBytes 0 len) =
      ((List.range (len / bs)).map fun j => bytesOf bs (f (blockOf (m.readBytes (j * bs) bs))).toNat).flatten := by
  unfold ecb
  rw [blocks_readBytes hbs, List.map_map, numBlocks_of_mod hbs h]
  congr 1
  apply List.map_congr_left
  intro j hj
  simp only [Function.comp_apply]
  rw [chunkBlock_full h (List.mem_range.mp hj)]

/-! ### The counter -/

theorem ctrAt_zero {bs : Nat} {ctr : Block} (h : ctr.toNat < 2 ^ (8 * bs)) : ctrAt bs ctr 0 = ctr := by
  apply BitVec.eq_of_toNat_eq
  unfold ctrAt
  rw [BitVec.toNat_ofNat, Nat.add_zero, Nat.mod_eq_of_lt h, Nat.mod_eq_of_lt ctr.isLt]

theorem ctrNext_lt (bs : Nat) (ctr : Block) : (ctrNext bs ctr).toNat < 2 ^ (8 * bs) := by
  unfold ctrNext
  rw [BitVec.toNat_ofNat]
  exact lt_of_le_of_lt (Nat.mod_le _ _) (Nat.mod_lt _ (Nat.pow_pos (by decide)))

theorem ctrAt_ctrNext {bs : Nat} (hbs : bs ≤ 16) (ctr : Block) (j : Nat) :
    ctrAt bs (ctrNext bs ctr) j = ctrAt bs ctr (j + 1) := by
  have hle : (2 : Nat) ^ (8 * bs) ≤ 2 ^ 128 := Nat.pow_le_pow_right (by decide) (by omega)
  have hlt : (ctr.toNat + 1) % 2 ^ (8 * bs) < 2 ^ 128 :=
    lt_of_lt_of_le (Nat.mod_lt _ (Nat.pow_pos (by decide))) hle
  unfold ctrAt ctrNext
  rw [BitVec.toNat_ofNat, Nat.mod_eq_of_lt hlt, Nat.mod_add_mod, Nat.add_right_comm, Nat.add_assoc]

/-! ### The stream under the installed key -/

/-- One piece of stream output: a block of the chunk under the keystream block of a key and a counter. -/
def streamPiece (c : Config) (bs16 : Bool) (bs : Nat) (key : Key) (ctr : Block) (b : List Byte) : List Byte :=
  xorBytes b (bytesOf bs (blockEnc c bs16 key ctr).toNat)

/-- A plain CTR stream: the counter advances by one a block, the output is the pieces in order, and nothing else of
the slot changes. -/
theorem stream_ctrUseKey (c : Config) (sl : Slot) (hctr : sl.ctr.toNat < 2 ^ (8 * sl.bs)) (bl : List (List Byte)) :
    stream c ctrUseKey sl bl =
      ({ sl with ctr := ctrAt sl.bs sl.ctr bl.length },
       ((List.range bl.length).map fun j =>
          streamPiece c sl.bs16 sl.bs sl.key (ctrAt sl.bs sl.ctr j) (bl.getD j [])).flatten) := by
  induction bl generalizing sl with
  | nil => simp [stream, ctrAt_zero hctr]
  | cons b bl ih =>
    have hstep := ih { sl with ctr := ctrNext sl.bs sl.ctr } (ctrNext_lt sl.bs sl.ctr)
    have hbs : Slot.bs { sl with ctr := ctrNext sl.bs sl.ctr } = sl.bs := rfl
    simp only [hbs, ctrAt_ctrNext sl.bs_le] at hstep
    simp only [stream, ctrUseKey, hstep, List.length_cons, List.range_succ_eq_map, List.map_cons, List.map_map,
      List.flatten_cons, List.getD_cons_zero, ctrAt_zero hctr]
    rfl

/-! ### The stream under an evolving key -/

/-- How often the working key was evolved before block `j`, from position `p` of a section of `n` bytes. -/
def evolutions (bs n p j : Nat) : Nat := (p + j * bs) / n

theorem multiple_lt_add_le {a b bs : Nat} (ha : a % bs = 0) (hb : b % bs = 0) (h : a < b) : a + bs ≤ b := by
  obtain ⟨x, rfl⟩ := Nat.dvd_of_mod_eq_zero ha
  obtain ⟨y, rfl⟩ := Nat.dvd_of_mod_eq_zero hb
  rw [← Nat.mul_succ]
  exact Nat.mul_le_mul_left bs (Nat.lt_of_mul_lt_mul_left h)

/-- The slot after one `usekey()` of ACPKM: an evolution if the section is full, then the block is counted. -/
theorem acpkmUseKey_eq (c : Config) (sl : Slot) (hle : sl.secpos.toNat ≤ sl.secsz.toNat)
    (hN : sl.secsz.toNat % sl.bs = 0) (hp : sl.secpos.toNat % sl.bs = 0) (hpos : 0 < sl.secsz.toNat) :
    ∃ p : Word,
      p.toNat = (if sl.secpos.toNat = sl.secsz.toNat then 0 else sl.secpos.toNat) + sl.bs ∧
      p.toNat ≤ sl.secsz.toNat ∧ p.toNat % sl.bs = 0 ∧
      acpkmUseKey c sl =
        (evolved c sl.bs16 sl.wkey (if sl.secpos.toNat = sl.secsz.toNat then 1 else 0),
         { sl with
            wkey := evolved c sl.bs16 sl.wkey (if sl.secpos.toNat = sl.secsz.toNat then 1 else 0)
            secpos := p }) := by
  have hb : (BitVec.ofNat 32 sl.bs).toNat = sl.bs := by
    rw [BitVec.toNat_ofNat]
    have := sl.bs_le
    omega
  have hszlt := sl.secsz.isLt
  by_cases h : sl.secpos = sl.secsz
  · have hn : sl.secpos.toNat = sl.secsz.toNat := by rw [h]
    have hle0 := multiple_lt_add_le (Nat.zero_mod sl.bs) hN hpos
    have hto : ((0 : Word) + BitVec.ofNat 32 sl.bs).toNat = 0 + sl.bs := by
      rw [zero_add, hb, Nat.zero_add]
    refine ⟨0 + BitVec.ofNat 32 sl.bs, ?_, ?_, ?_, ?_⟩
    · rw [if_pos hn]; exact hto
    · rw [hto]; exact hle0
    · rw [hto, Nat.zero_add, Nat.mod_self]
    · rw [if_pos hn]
      simp only [acpkmUseKey, Slot.nextSection, h, if_true, evolved, Function.iterate_one]
      rfl
  · have hn : sl.secpos.toNat ≠ sl.secsz.toNat := fun e => h (BitVec.eq_of_toNat_eq e)
    have hle1 := multiple_lt_add_le hp hN (by omega)
    have hto : (sl.secpos + BitVec.ofNat 32 sl.bs).toNat = sl.secpos.toNat + sl.bs := by
      rw [BitVec.toNat_add, hb]
      omega
    refine ⟨sl.secpos + BitVec.ofNat 32 sl.bs, ?_, ?_, ?_, ?_⟩
    · rw [if_neg hn]; exact hto
    · rw [hto]; exact hle1
    · rw [hto, Nat.add_mod_right]; exact hp
    · rw [if_neg hn]
      simp only [acpkmUseKey, Slot.nextSection, h, if_false, evolved, Function.iterate_zero, id]

theorem evolutions_succ {bs n p : Nat} (hn : 0 < n) (hle : p ≤ n) (j : Nat) :
    evolutions bs n ((if p = n then 0 else p) + bs) j + (if p = n then 1 else 0) = evolutions bs n p (j + 1) := by
  unfold evolutions
  split
  · rename_i h
    subst h
    rw [show p + (j + 1) * bs = (0 + bs + j * bs) + p by ring, Nat.add_div_right _ hn]
  · rw [show p + (j + 1) * bs = p + bs + j * bs by ring, Nat.add_zero]

theorem evolutions_zero {bs n p : Nat} (hn : 0 < n) (hle : p ≤ n) :
    evolutions bs n p 0 = if p = n then 1 else 0 := by
  unfold evolutions
  split
  · rename_i h
    rw [h, Nat.zero_mul, Nat.add_zero, Nat.div_self hn]
  · rw [Nat.zero_mul, Nat.add_zero, Nat.div_eq_of_lt (by omega)]

theorem evolved_evolved (c : Config) (bs16 : Bool) (key : Key) (a b : Nat) :
    evolved c bs16 (evolved c bs16 key a) b = evolved c bs16 key (b + a) := by
  unfold evolved
  rw [Function.iterate_add_apply]

/-- The place of the section after `q` blocks from position `p`. -/
def sectionPos (bs n p : Nat) : Nat → Nat
  | 0 => p
  | q + 1 => (p + q * bs) % n + bs

/-- How often the working key was evolved after `q` blocks from position `p`. -/
def evolutionsAfter (bs n p : Nat) : Nat → Nat
  | 0 => 0
  | q + 1 => evolutions bs n p q

theorem sectionPos_succ {bs n p : Nat} (hle : p ≤ n) (q : Nat) :
    sectionPos bs n ((if p = n then 0 else p) + bs) q = sectionPos bs n p (q + 1) ∨ q = 0 := by
  cases q with
  | zero => exact .inr rfl
  | succ q =>
    left
    simp only [sectionPos]
    split
    · rename_i h
      subst h
      rw [show p + (q + 1) * bs = (0 + bs + q * bs) + p by ring, Nat.add_mod_right]
    · rw [show p + (q + 1) * bs = p + bs + q * bs by ring]

/-- An ACPKM stream: the counter advances by one a block, block `j` is under the working key evolved
`evolutions … j` times, and only the counter, the working key and the position of the slot change. -/
theorem stream_acpkmUseKey (c : Config) (sl : Slot) (hctr : sl.ctr.toNat < 2 ^ (8 * sl.bs))
    (hle : sl.secpos.toNat ≤ sl.secsz.toNat) (hN : sl.secsz.toNat % sl.bs = 0)
    (hp : sl.secpos.toNat % sl.bs = 0) (hpos : 0 < sl.secsz.toNat) (bl : List (List Byte)) :
    ∃ p : Word,
      p.toNat = sectionPos sl.bs sl.secsz.toNat sl.secpos.toNat bl.length ∧
      p.toNat ≤ sl.secsz.toNat ∧ p.toNat % sl.bs = 0 ∧
      stream c (acpkmUseKey c) sl bl =
        ({ sl with
            ctr := ctrAt sl.bs sl.ctr bl.length
            wkey := evolved c sl.bs16 sl.wkey
              (evolutionsAfter sl.bs sl.secsz.toNat sl.secpos.toNat bl.length)
            secpos := p },
         ((List.range bl.length).map fun j =>
            streamPiece c sl.bs16 sl.bs
              (evolved c sl.bs16 sl.wkey (evolutions sl.bs sl.secsz.toNat sl.secpos.toNat j))
              (ctrAt sl.bs sl.ctr j) (bl.getD j [])).flatten) := by
  induction bl generalizing sl with
  | nil => exact ⟨sl.secpos, rfl, hle, hp, by simp [stream, ctrAt_zero hctr, evolved, evolutionsAfter]⟩
  | cons b bl ih =>
    obtain ⟨p1, hp1, hple, hpm, huse⟩ := acpkmUseKey_eq c sl hle hN hp hpos
    obtain ⟨p, hpp, hppn, hppm, hstep⟩ := ih
      { sl with
        ctr := ctrNext sl.bs sl.ctr
        wkey := evolved c sl.bs16 sl.wkey (if sl.secpos.toNat = sl.secsz.toNat then 1 else 0)
        secpos := p1 }
      (ctrNext_lt sl.bs sl.ctr) hple hN hpm hpos
    have hbs : Slot.bs
      { sl with
        ctr := ctrNext sl.bs sl.ctr
        wkey := evolved c sl.bs16 sl.wkey (if sl.secpos.toNat = sl.secsz.toNat then 1 else 0)
        secpos := p1 } = sl.bs := rfl
    have hbs1 : Slot.bs
      { sl with
        wkey := evolved c sl.bs16 sl.wkey (if sl.secpos.toNat = sl.secsz.toNat then 1 else 0)
        secpos := p1 } = sl.bs := rfl
    simp only [hbs, ctrAt_ctrNext sl.bs_le, evolved_evolved, hp1, evolutions_succ hpos hle] at hstep hpp hppm
    have hafter : evolutionsAfter sl.bs sl.secsz.toNat
          ((if sl.secpos.toNat = sl.secsz.toNat then 0 else sl.secpos.toNat) + sl.bs) bl.length +
        (if sl.secpos.toNat = sl.secsz.toNat then 1 else 0) =
        evolutionsAfter sl.bs sl.secsz.toNat sl.secpos.toNat (b :: bl).length := by
      cases bl with
      | nil => simp [evolutionsAfter, evolutions_zero hpos hle]
      | cons b' bl => exact evolutions_succ hpos hle _
    have hpos' : p.toNat = sectionPos sl.bs sl.secsz.toNat sl.secpos.toNat (b :: bl).length := by
      rw [hpp]
      rcases sectionPos_succ (bs := sl.bs) hle bl.length with h | h
      · exact h
      · rw [List.length_cons, h]
        simp only [sectionPos, Nat.zero_mul, Nat.add_zero]
        split
        · rename_i e; rw [e, Nat.mod_self]
        · rw [Nat.mod_eq_of_lt (by omega)]
    refine ⟨p, hpos', hppn, hppm, ?_⟩
    simp only [stream, huse, hbs1, hstep, hafter, List.length_cons, List.range_succ_eq_map, List.map_cons,
      List.map_map, List.flatten_cons, List.getD_cons_zero, ctrAt_zero hctr, evolutions_zero hpos hle]
    rfl

/-! ### OMAC -/

/-- The chain over all blocks but the last, by index (R120). -/
theorem omacChain_eq (enc : Block → Block) (ch : Block) (bl : List (List Byte)) :
    omacChain enc ch bl =
      ((bl.dropLast).foldl (fun ch b => enc (ch ^^^ blockOf b)) ch, bl.getLastD []) := by
  induction bl generalizing ch with
  | nil => rfl
  | cons b bl ih =>
    cases bl with
    | nil => rfl
    | cons b' bl => simp [omacChain, ih]

end Sys2Proof.Machine
end

