-- ==== Sys2Proof/Laws/Mgm.lean ====
section
/-! SUPPORT. What the shared procedures of the MGM session compute, block by block: absorbing a chunk, and the
encrypting or decrypting loop that absorbs the ciphertext. -/

namespace Sys2Proof.Machine

open Sys2Proof

theorem absorbedSum_congr (c : Config) (akey : Key) (z sum : Block) {f g : Nat → Block} {q : Nat}
    (h : ∀ j, j < q → f j = g j) : absorbedSum c akey z sum f q = absorbedSum c akey z sum g q := by
  induction q with
  | zero => rfl
  | succ q ih => rw [absorbedSum, absorbedSum, ih fun j hj => h j (by omega), h q (by omega)]

/-- Absorbing `p` blocks and then `q` more absorbs `p + q`. -/
theorem absorbedSum_add (c : Config) (akey : Key) (z sum : Block) (f : Nat → Block) (p q : Nat) :
    absorbedSum c akey z sum f (p + q) =
      absorbedSum c akey (c.incrZ^[p] z) (absorbedSum c akey z sum f p) (fun j => f (p + j)) q := by
  induction q with
  | zero => rfl
  | succ q ih =>
    rw [← Nat.add_assoc, absorbedSum, ih, absorbedSum, ← Function.iterate_add_apply, Nat.add_comm q p]

/-- Absorbing the first block and then `q` more. -/
theorem absorbedSum_succ_left (c : Config) (akey : Key) (z sum : Block) (f : Nat → Block) (q : Nat) :
    absorbedSum c akey z sum f (q + 1) =
      absorbedSum c akey (c.incrZ z) (sum ^^^ c.gfmul (blockEnc c true akey z) (f 0)) (fun j => f (j + 1)) q := by
  rw [Nat.add_comm q 1, absorbedSum_add]
  exact absorbedSum_congr c akey _ _ fun j _ => by rw [Nat.add_comm]

/-- Absorbing a list of blocks changes the accumulator and the authentication counter and nothing else. -/
theorem absorbAll_eq (c : Config) (akey : Key) (m : Session) (bl : List (List Byte)) :
    m.absorbAll c akey bl =
      { m with
        sum := absorbedSum c akey m.z m.sum (fun j => blockOf (pad16 (bl.getD j []))) bl.length
        z := c.incrZ^[bl.length] m.z } := by
  induction bl generalizing m with
  | nil => rfl
  | cons b bl ih =>
    rw [Session.absorbAll, ih, List.length_cons, absorbedSum_succ_left]
    rfl

theorem absorbAll_append (c : Config) (akey : Key) (m : Session) (a b : List (List Byte)) :
    m.absorbAll c akey (a ++ b) = (m.absorbAll c akey a).absorbAll c akey b := by
  induction a generalizing m with
  | nil => rfl
  | cons x a ih => exact ih _

/-- Output block `j` of the loop: the chunk's block under the keystream block of the counter advanced `j` times. -/
def cryptPiece (c : Config) (ekey : Key) (y : Block) (j : Nat) (b : List Byte) : List Byte :=
  streamPiece c true 16 ekey (c.incrY^[j] y) b

/-- The loop of `Crypt`: the output is the pieces in order, the ciphertext is absorbed, both counters advance once a
block, and nothing else of the session changes. -/
theorem crypt_eq (c : Config) (ekey akey : Key) (decrypt : Bool) (m : Session) (bl : List (List Byte)) :
    m.crypt c ekey akey decrypt bl =
      ({ m with
         sum := absorbedSum c akey m.z m.sum
           (fun j => blockOf (pad16 (if decrypt then bl.getD j [] else cryptPiece c ekey m.y j (bl.getD j []))))
           bl.length
         z := c.incrZ^[bl.length] m.z
         y := c.incrY^[bl.length] m.y },
       ((List.range bl.length).map fun j => cryptPiece c ekey m.y j (bl.getD j [])).flatten) := by
  induction bl generalizing m with
  | nil => rfl
  | cons b bl ih =>
    rw [Session.crypt, ih, List.length_cons, absorbedSum_succ_left, List.range_succ_eq_map, List.map_cons,
      List.map_map, List.flatten_cons]
    rfl

theorem crypt_append (c : Config) (ekey akey : Key) (decrypt : Bool) (m : Session) (a b : List (List Byte)) :
    m.crypt c ekey akey decrypt (a ++ b) =
      (((m.crypt c ekey akey decrypt a).1.crypt c ekey akey decrypt b).1,
       (m.crypt c ekey akey decrypt a).2 ++ ((m.crypt c ekey akey decrypt a).1.crypt c ekey akey decrypt b).2) := by
  induction a generalizing m with
  | nil => rfl
  | cons x a ih => simp only [List.cons_append, Session.crypt, ih, List.append_assoc]

/-- Decrypting what was encrypted gives the data back and leaves the same session (R140). -/
theorem crypt_decrypt (c : Config) (ekey akey : Key) (m : Session) (bl : List (List Byte))
    (h : ∀ b ∈ bl, b.length ≤ 16) (outs : List (List Byte))
    (houts : outs = (List.range bl.length).map fun j => cryptPiece c ekey m.y j (bl.getD j [])) :
    m.crypt c ekey akey true outs =
      ((m.crypt c ekey akey false bl).1, bl.flatten) := by
  induction bl generalizing m outs with
  | nil => subst houts; rfl
  | cons b bl ih =>
    rw [List.length_cons, List.range_succ_eq_map, List.map_cons, List.map_map] at houts
    subst houts
    have hb : b.length ≤ 16 := h b List.mem_cons_self
    have hx : xorBytes (cryptPiece c ekey m.y 0 b) (bytesOf 16 (blockEnc c true ekey m.y).toNat) = b :=
      xorBytes_xorBytes (by simpa using hb)
    simp only [Session.crypt, List.getD_cons_zero, if_true, hx, Bool.false_eq_true, if_false, List.flatten_cons]
    have hmem : ∀ x ∈ bl, x.length ≤ 16 := fun x hx => h x (List.mem_cons_of_mem _ hx)
    have key := ih
      { m.absorb c akey (blockOf (pad16 (cryptPiece c ekey m.y 0 b))) with y := c.incrY m.y } hmem _ rfl
    have key1 := congrArg Prod.fst key
    have key2 := congrArg Prod.snd key
    exact Prod.ext key1 (congrArg (b ++ ·) key2)

end Sys2Proof.Machine
end

