-- ==== Sys2Proof/Laws/Effects.lean ====
section
/-! SUPPORT. The Effects of the stream and MGM commands: each as its named updates, one lemma per field it leaves alone,
and how long its output is. -/

namespace Sys2Proof.Machine

open Sys2Proof

/-! ### The Effects as updates -/

theorem State.runStream_eq (s : State) (c : Config) (u : Slot → Key × Slot) (k : SlotId) (sl : Slot) :
    s.runStream c u k sl =
      (s.setSlot k ((stream c u sl (blocks sl.bs s.dataBytes)).1.closeStream s.dlen.toNat)).writeDout
        (stream c u sl (blocks sl.bs s.dataBytes)).2 := rfl

/-- The session after `Crypt`. -/
def State.cryptSession (s : State) (c : Config) (decrypt : Bool) : Session :=
  let m := (s.m.crypt c s.encKey s.authKey decrypt (blocks 16 s.dataBytes)).1
  { m with
    pbits := countBits m.pbits s.dlen.toNat
    eclosed := m.eclosed || partialChunk 16 s.dlen.toNat }

/-- The output of `Crypt`. -/
def State.cryptOutput (s : State) (c : Config) (decrypt : Bool) : List Byte :=
  (s.m.crypt c s.encKey s.authKey decrypt (blocks 16 s.dataBytes)).2

theorem State.crypt_eq (s : State) (c : Config) (decrypt : Bool) :
    s.crypt c decrypt = (s.setSession (s.cryptSession c decrypt)).writeDout (s.cryptOutput c decrypt) := rfl


/-! ### `State.authClean` -/

@[simp] theorem State.authClean_alen (s : State) (c : Config) (ek ak : SlotId) : (s.authClean c ek ak).alen = s.alen := rfl
@[simp] theorem State.authClean_dlen (s : State) (c : Config) (ek ak : SlotId) : (s.authClean c ek ak).dlen = s.dlen := rfl
@[simp] theorem State.authClean_klen (s : State) (c : Config) (ek ak : SlotId) : (s.authClean c ek ak).klen = s.klen := rfl
@[simp] theorem State.authClean_ivlen (s : State) (c : Config) (ek ak : SlotId) : (s.authClean c ek ak).ivlen = s.ivlen := rfl
@[simp] theorem State.authClean_secsz (s : State) (c : Config) (ek ak : SlotId) : (s.authClean c ek ak).secsz = s.secsz := rfl
@[simp] theorem State.authClean_err (s : State) (c : Config) (ek ak : SlotId) : (s.authClean c ek ak).err = s.err := rfl
@[simp] theorem State.authClean_verdict (s : State) (c : Config) (ek ak : SlotId) : (s.authClean c ek ak).verdict = s.verdict := rfl
@[simp] theorem State.authClean_k0 (s : State) (c : Config) (ek ak : SlotId) : (s.authClean c ek ak).k0 = s.k0 := rfl
@[simp] theorem State.authClean_k1 (s : State) (c : Config) (ek ak : SlotId) : (s.authClean c ek ak).k1 = s.k1 := rfl
@[simp] theorem State.authClean_ivin (s : State) (c : Config) (ek ak : SlotId) : (s.authClean c ek ak).ivin = s.ivin := rfl
@[simp] theorem State.authClean_keyin (s : State) (c : Config) (ek ak : SlotId) : (s.authClean c ek ak).keyin = s.keyin := rfl
@[simp] theorem State.authClean_tagin (s : State) (c : Config) (ek ak : SlotId) : (s.authClean c ek ak).tagin = s.tagin := rfl
@[simp] theorem State.authClean_ain (s : State) (c : Config) (ek ak : SlotId) : (s.authClean c ek ak).ain = s.ain := rfl
@[simp] theorem State.authClean_din (s : State) (c : Config) (ek ak : SlotId) : (s.authClean c ek ak).din = s.din := rfl
@[simp] theorem State.authClean_dout (s : State) (c : Config) (ek ak : SlotId) : (s.authClean c ek ak).dout = s.dout := rfl
@[simp] theorem State.authClean_draws (s : State) (c : Config) (ek ak : SlotId) : (s.authClean c ek ak).draws = s.draws := rfl
@[simp] theorem State.authClean_pending (s : State) (c : Config) (ek ak : SlotId) : (s.authClean c ek ak).pending = s.pending := rfl
@[simp] theorem State.authClean_reply (s : State) (c : Config) (ek ak : SlotId) : (s.authClean c ek ak).reply = s.reply := rfl
@[simp] theorem State.authClean_slot (s : State) (c : Config) (ek ak : SlotId) (k : SlotId) : (s.authClean c ek ak).slot k = s.slot k := by
  cases k <;> simp only [State.slot, State.authClean_k0, State.authClean_k1]

/-! ### `State.authUpdate` -/

@[simp] theorem State.authUpdate_alen (s : State) (c : Config) : (s.authUpdate c).alen = s.alen := rfl
@[simp] theorem State.authUpdate_dlen (s : State) (c : Config) : (s.authUpdate c).dlen = s.dlen := rfl
@[simp] theorem State.authUpdate_klen (s : State) (c : Config) : (s.authUpdate c).klen = s.klen := rfl
@[simp] theorem State.authUpdate_ivlen (s : State) (c : Config) : (s.authUpdate c).ivlen = s.ivlen := rfl
@[simp] theorem State.authUpdate_secsz (s : State) (c : Config) : (s.authUpdate c).secsz = s.secsz := rfl
@[simp] theorem State.authUpdate_err (s : State) (c : Config) : (s.authUpdate c).err = s.err := rfl
@[simp] theorem State.authUpdate_verdict (s : State) (c : Config) : (s.authUpdate c).verdict = s.verdict := rfl
@[simp] theorem State.authUpdate_k0 (s : State) (c : Config) : (s.authUpdate c).k0 = s.k0 := rfl
@[simp] theorem State.authUpdate_k1 (s : State) (c : Config) : (s.authUpdate c).k1 = s.k1 := rfl
@[simp] theorem State.authUpdate_ivin (s : State) (c : Config) : (s.authUpdate c).ivin = s.ivin := rfl
@[simp] theorem State.authUpdate_keyin (s : State) (c : Config) : (s.authUpdate c).keyin = s.keyin := rfl
@[simp] theorem State.authUpdate_tagin (s : State) (c : Config) : (s.authUpdate c).tagin = s.tagin := rfl
@[simp] theorem State.authUpdate_tag (s : State) (c : Config) : (s.authUpdate c).tag = s.tag := rfl
@[simp] theorem State.authUpdate_ain (s : State) (c : Config) : (s.authUpdate c).ain = s.ain := rfl
@[simp] theorem State.authUpdate_din (s : State) (c : Config) : (s.authUpdate c).din = s.din := rfl
@[simp] theorem State.authUpdate_dout (s : State) (c : Config) : (s.authUpdate c).dout = s.dout := rfl
@[simp] theorem State.authUpdate_draws (s : State) (c : Config) : (s.authUpdate c).draws = s.draws := rfl
@[simp] theorem State.authUpdate_pending (s : State) (c : Config) : (s.authUpdate c).pending = s.pending := rfl
@[simp] theorem State.authUpdate_reply (s : State) (c : Config) : (s.authUpdate c).reply = s.reply := rfl
@[simp] theorem State.authUpdate_slot (s : State) (c : Config) (k : SlotId) : (s.authUpdate c).slot k = s.slot k := by
  cases k <;> simp only [State.slot, State.authUpdate_k0, State.authUpdate_k1]

/-! ### `State.encClean` -/

@[simp] theorem State.encClean_alen (s : State) (c : Config) : (s.encClean c).alen = s.alen := rfl
@[simp] theorem State.encClean_dlen (s : State) (c : Config) : (s.encClean c).dlen = s.dlen := rfl
@[simp] theorem State.encClean_klen (s : State) (c : Config) : (s.encClean c).klen = s.klen := rfl
@[simp] theorem State.encClean_ivlen (s : State) (c : Config) : (s.encClean c).ivlen = s.ivlen := rfl
@[simp] theorem State.encClean_secsz (s : State) (c : Config) : (s.encClean c).secsz = s.secsz := rfl
@[simp] theorem State.encClean_err (s : State) (c : Config) : (s.encClean c).err = s.err := rfl
@[simp] theorem State.encClean_verdict (s : State) (c : Config) : (s.encClean c).verdict = s.verdict := rfl
@[simp] theorem State.encClean_k0 (s : State) (c : Config) : (s.encClean c).k0 = s.k0 := rfl
@[simp] theorem State.encClean_k1 (s : State) (c : Config) : (s.encClean c).k1 = s.k1 := rfl
@[simp] theorem State.encClean_ivin (s : State) (c : Config) : (s.encClean c).ivin = s.ivin := rfl
@[simp] theorem State.encClean_keyin (s : State) (c : Config) : (s.encClean c).keyin = s.keyin := rfl
@[simp] theorem State.encClean_tagin (s : State) (c : Config) : (s.encClean c).tagin = s.tagin := rfl
@[simp] theorem State.encClean_tag (s : State) (c : Config) : (s.encClean c).tag = s.tag := rfl
@[simp] theorem State.encClean_ain (s : State) (c : Config) : (s.encClean c).ain = s.ain := rfl
@[simp] theorem State.encClean_din (s : State) (c : Config) : (s.encClean c).din = s.din := rfl
@[simp] theorem State.encClean_dout (s : State) (c : Config) : (s.encClean c).dout = s.dout := rfl
@[simp] theorem State.encClean_draws (s : State) (c : Config) : (s.encClean c).draws = s.draws := rfl
@[simp] theorem State.encClean_pending (s : State) (c : Config) : (s.encClean c).pending = s.pending := rfl
@[simp] theorem State.encClean_reply (s : State) (c : Config) : (s.encClean c).reply = s.reply := rfl
@[simp] theorem State.encClean_slot (s : State) (c : Config) (k : SlotId) : (s.encClean c).slot k = s.slot k := by
  cases k <;> simp only [State.slot, State.encClean_k0, State.encClean_k1]

/-! ### `State.crypt` -/

@[simp] theorem State.crypt_alen (s : State) (c : Config) (d : Bool) : (s.crypt c d).alen = s.alen := rfl
@[simp] theorem State.crypt_dlen (s : State) (c : Config) (d : Bool) : (s.crypt c d).dlen = s.dlen := rfl
@[simp] theorem State.crypt_klen (s : State) (c : Config) (d : Bool) : (s.crypt c d).klen = s.klen := rfl
@[simp] theorem State.crypt_ivlen (s : State) (c : Config) (d : Bool) : (s.crypt c d).ivlen = s.ivlen := rfl
@[simp] theorem State.crypt_secsz (s : State) (c : Config) (d : Bool) : (s.crypt c d).secsz = s.secsz := rfl
@[simp] theorem State.crypt_err (s : State) (c : Config) (d : Bool) : (s.crypt c d).err = s.err := rfl
@[simp] theorem State.crypt_verdict (s : State) (c : Config) (d : Bool) : (s.crypt c d).verdict = s.verdict := rfl
@[simp] theorem State.crypt_k0 (s : State) (c : Config) (d : Bool) : (s.crypt c d).k0 = s.k0 := rfl
@[simp] theorem State.crypt_k1 (s : State) (c : Config) (d : Bool) : (s.crypt c d).k1 = s.k1 := rfl
@[simp] theorem State.crypt_ivin (s : State) (c : Config) (d : Bool) : (s.crypt c d).ivin = s.ivin := rfl
@[simp] theorem State.crypt_keyin (s : State) (c : Config) (d : Bool) : (s.crypt c d).keyin = s.keyin := rfl
@[simp] theorem State.crypt_tagin (s : State) (c : Config) (d : Bool) : (s.crypt c d).tagin = s.tagin := rfl
@[simp] theorem State.crypt_tag (s : State) (c : Config) (d : Bool) : (s.crypt c d).tag = s.tag := rfl
@[simp] theorem State.crypt_ain (s : State) (c : Config) (d : Bool) : (s.crypt c d).ain = s.ain := rfl
@[simp] theorem State.crypt_din (s : State) (c : Config) (d : Bool) : (s.crypt c d).din = s.din := rfl
@[simp] theorem State.crypt_draws (s : State) (c : Config) (d : Bool) : (s.crypt c d).draws = s.draws := rfl
@[simp] theorem State.crypt_pending (s : State) (c : Config) (d : Bool) : (s.crypt c d).pending = s.pending := rfl
@[simp] theorem State.crypt_reply (s : State) (c : Config) (d : Bool) : (s.crypt c d).reply = s.reply := rfl
@[simp] theorem State.crypt_slot (s : State) (c : Config) (d : Bool) (k : SlotId) : (s.crypt c d).slot k = s.slot k := by
  cases k <;> simp only [State.slot, State.crypt_k0, State.crypt_k1]
@[simp] theorem State.crypt_m (s : State) (c : Config) (d : Bool) : (s.crypt c d).m = s.cryptSession c d := rfl
@[simp] theorem State.crypt_dout (s : State) (c : Config) (d : Bool) :
    (s.crypt c d).dout = s.dout.writeBytes 0 (s.cryptOutput c d) := rfl

/-! ### `State.authFinish` -/

@[simp] theorem State.authFinish_alen (s : State) (c : Config) (n : Nat) : (s.authFinish c n).alen = s.alen := rfl
@[simp] theorem State.authFinish_dlen (s : State) (c : Config) (n : Nat) : (s.authFinish c n).dlen = s.dlen := rfl
@[simp] theorem State.authFinish_klen (s : State) (c : Config) (n : Nat) : (s.authFinish c n).klen = s.klen := rfl
@[simp] theorem State.authFinish_ivlen (s : State) (c : Config) (n : Nat) : (s.authFinish c n).ivlen = s.ivlen := rfl
@[simp] theorem State.authFinish_secsz (s : State) (c : Config) (n : Nat) : (s.authFinish c n).secsz = s.secsz := rfl
@[simp] theorem State.authFinish_err (s : State) (c : Config) (n : Nat) : (s.authFinish c n).err = s.err := rfl
@[simp] theorem State.authFinish_verdict (s : State) (c : Config) (n : Nat) : (s.authFinish c n).verdict = s.verdict := rfl
@[simp] theorem State.authFinish_k0 (s : State) (c : Config) (n : Nat) : (s.authFinish c n).k0 = s.k0 := rfl
@[simp] theorem State.authFinish_k1 (s : State) (c : Config) (n : Nat) : (s.authFinish c n).k1 = s.k1 := rfl
@[simp] theorem State.authFinish_ivin (s : State) (c : Config) (n : Nat) : (s.authFinish c n).ivin = s.ivin := rfl
@[simp] theorem State.authFinish_keyin (s : State) (c : Config) (n : Nat) : (s.authFinish c n).keyin = s.keyin := rfl
@[simp] theorem State.authFinish_tagin (s : State) (c : Config) (n : Nat) : (s.authFinish c n).tagin = s.tagin := rfl
@[simp] theorem State.authFinish_ain (s : State) (c : Config) (n : Nat) : (s.authFinish c n).ain = s.ain := rfl
@[simp] theorem State.authFinish_din (s : State) (c : Config) (n : Nat) : (s.authFinish c n).din = s.din := rfl
@[simp] theorem State.authFinish_dout (s : State) (c : Config) (n : Nat) : (s.authFinish c n).dout = s.dout := rfl
@[simp] theorem State.authFinish_draws (s : State) (c : Config) (n : Nat) : (s.authFinish c n).draws = s.draws := rfl
@[simp] theorem State.authFinish_pending (s : State) (c : Config) (n : Nat) : (s.authFinish c n).pending = s.pending := rfl
@[simp] theorem State.authFinish_reply (s : State) (c : Config) (n : Nat) : (s.authFinish c n).reply = s.reply := rfl
@[simp] theorem State.authFinish_slot (s : State) (c : Config) (n : Nat) (k : SlotId) : (s.authFinish c n).slot k = s.slot k := by
  cases k <;> simp only [State.slot, State.authFinish_k0, State.authFinish_k1]

/-! ### `State.withholdOutput` -/

@[simp] theorem State.withholdOutput_alen (s : State) : (s.withholdOutput).alen = s.alen := rfl
@[simp] theorem State.withholdOutput_dlen (s : State) : (s.withholdOutput).dlen = s.dlen := rfl
@[simp] theorem State.withholdOutput_klen (s : State) : (s.withholdOutput).klen = s.klen := rfl
@[simp] theorem State.withholdOutput_ivlen (s : State) : (s.withholdOutput).ivlen = s.ivlen := rfl
@[simp] theorem State.withholdOutput_secsz (s : State) : (s.withholdOutput).secsz = s.secsz := rfl
@[simp] theorem State.withholdOutput_err (s : State) : (s.withholdOutput).err = s.err := rfl
@[simp] theorem State.withholdOutput_verdict (s : State) : (s.withholdOutput).verdict = s.verdict := rfl
@[simp] theorem State.withholdOutput_k0 (s : State) : (s.withholdOutput).k0 = s.k0 := rfl
@[simp] theorem State.withholdOutput_k1 (s : State) : (s.withholdOutput).k1 = s.k1 := rfl
@[simp] theorem State.withholdOutput_m (s : State) : (s.withholdOutput).m = s.m := rfl
@[simp] theorem State.withholdOutput_ivin (s : State) : (s.withholdOutput).ivin = s.ivin := rfl
@[simp] theorem State.withholdOutput_keyin (s : State) : (s.withholdOutput).keyin = s.keyin := rfl
@[simp] theorem State.withholdOutput_tagin (s : State) : (s.withholdOutput).tagin = s.tagin := rfl
@[simp] theorem State.withholdOutput_ain (s : State) : (s.withholdOutput).ain = s.ain := rfl
@[simp] theorem State.withholdOutput_din (s : State) : (s.withholdOutput).din = s.din := rfl
@[simp] theorem State.withholdOutput_draws (s : State) : (s.withholdOutput).draws = s.draws := rfl
@[simp] theorem State.withholdOutput_pending (s : State) : (s.withholdOutput).pending = s.pending := rfl
@[simp] theorem State.withholdOutput_reply (s : State) : (s.withholdOutput).reply = s.reply := rfl
@[simp] theorem State.withholdOutput_slot (s : State) (k : SlotId) : (s.withholdOutput).slot k = s.slot k := by
  cases k <;> simp only [State.slot, State.withholdOutput_k0, State.withholdOutput_k1]
@[simp] theorem State.withholdOutput_dout (s : State) :
    s.withholdOutput.dout = s.dout.writeBytes 0 (zeros s.dlen.toNat) := rfl
@[simp] theorem State.withholdOutput_tag (s : State) : s.withholdOutput.tag = s.tag.writeBytes 0 (zeros 16) := rfl

/-! ### `State.pipeline` -/

@[simp] theorem State.pipeline_alen (s : State) (c : Config) (ek ak : SlotId) (n : Nat) (d : Bool) : (s.pipeline c ek ak n d).alen = s.alen := by
  simp only [State.pipeline, State.authFinish_alen, State.crypt_alen, State.encClean_alen, State.authUpdate_alen, State.authClean_alen]
@[simp] theorem State.pipeline_dlen (s : State) (c : Config) (ek ak : SlotId) (n : Nat) (d : Bool) : (s.pipeline c ek ak n d).dlen = s.dlen := by
  simp only [State.pipeline, State.authFinish_dlen, State.crypt_dlen, State.encClean_dlen, State.authUpdate_dlen, State.authClean_dlen]
@[simp] theorem State.pipeline_klen (s : State) (c : Config) (ek ak : SlotId) (n : Nat) (d : Bool) : (s.pipeline c ek ak n d).klen = s.klen := by
  simp only [State.pipeline, State.authFinish_klen, State.crypt_klen, State.encClean_klen, State.authUpdate_klen, State.authClean_klen]
@[simp] theorem State.pipeline_ivlen (s : State) (c : Config) (ek ak : SlotId) (n : Nat) (d : Bool) : (s.pipeline c ek ak n d).ivlen = s.ivlen := by
  simp only [State.pipeline, State.authFinish_ivlen, State.crypt_ivlen, State.encClean_ivlen, State.authUpdate_ivlen, State.authClean_ivlen]
@[simp] theorem State.pipeline_secsz (s : State) (c : Config) (ek ak : SlotId) (n : Nat) (d : Bool) : (s.pipeline c ek ak n d).secsz = s.secsz := by
  simp only [State.pipeline, State.authFinish_secsz, State.crypt_secsz, State.encClean_secsz, State.authUpdate_secsz, State.authClean_secsz]
@[simp] theorem State.pipeline_err (s : State) (c : Config) (ek ak : SlotId) (n : Nat) (d : Bool) : (s.pipeline c ek ak n d).err = s.err := by
  simp only [State.pipeline, State.authFinish_err, State.crypt_err, State.encClean_err, State.authUpdate_err, State.authClean_err]
@[simp] theorem State.pipeline_verdict (s : State) (c : Config) (ek ak : SlotId) (n : Nat) (d : Bool) : (s.pipeline c ek ak n d).verdict = s.verdict := by
  simp only [State.pipeline, State.authFinish_verdict, State.crypt_verdict, State.encClean_verdict, State.authUpdate_verdict, State.authClean_verdict]
@[simp] theorem State.pipeline_k0 (s : State) (c : Config) (ek ak : SlotId) (n : Nat) (d : Bool) : (s.pipeline c ek ak n d).k0 = s.k0 := by
  simp only [State.pipeline, State.authFinish_k0, State.crypt_k0, State.encClean_k0, State.authUpdate_k0, State.authClean_k0]
@[simp] theorem State.pipeline_k1 (s : State) (c : Config) (ek ak : SlotId) (n : Nat) (d : Bool) : (s.pipeline c ek ak n d).k1 = s.k1 := by
  simp only [State.pipeline, State.authFinish_k1, State.crypt_k1, State.encClean_k1, State.authUpdate_k1, State.authClean_k1]
@[simp] theorem State.pipeline_ivin (s : State) (c : Config) (ek ak : SlotId) (n : Nat) (d : Bool) : (s.pipeline c ek ak n d).ivin = s.ivin := by
  simp only [State.pipeline, State.authFinish_ivin, State.crypt_ivin, State.encClean_ivin, State.authUpdate_ivin, State.authClean_ivin]
@[simp] theorem State.pipeline_keyin (s : State) (c : Config) (ek ak : SlotId) (n : Nat) (d : Bool) : (s.pipeline c ek ak n d).keyin = s.keyin := by
  simp only [State.pipeline, State.authFinish_keyin, State.crypt_keyin, State.encClean_keyin, State.authUpdate_keyin, State.authClean_keyin]
@[simp] theorem State.pipeline_tagin (s : State) (c : Config) (ek ak : SlotId) (n : Nat) (d : Bool) : (s.pipeline c ek ak n d).tagin = s.tagin := by
  simp only [State.pipeline, State.authFinish_tagin, State.crypt_tagin, State.encClean_tagin, State.authUpdate_tagin, State.authClean_tagin]
@[simp] theorem State.pipeline_ain (s : State) (c : Config) (ek ak : SlotId) (n : Nat) (d : Bool) : (s.pipeline c ek ak n d).ain = s.ain := by
  simp only [State.pipeline, State.authFinish_ain, State.crypt_ain, State.encClean_ain, State.authUpdate_ain, State.authClean_ain]
@[simp] theorem State.pipeline_din (s : State) (c : Config) (ek ak : SlotId) (n : Nat) (d : Bool) : (s.pipeline c ek ak n d).din = s.din := by
  simp only [State.pipeline, State.authFinish_din, State.crypt_din, State.encClean_din, State.authUpdate_din, State.authClean_din]
@[simp] theorem State.pipeline_draws (s : State) (c : Config) (ek ak : SlotId) (n : Nat) (d : Bool) : (s.pipeline c ek ak n d).draws = s.draws := by
  simp only [State.pipeline, State.authFinish_draws, State.crypt_draws, State.encClean_draws, State.authUpdate_draws, State.authClean_draws]
@[simp] theorem State.pipeline_pending (s : State) (c : Config) (ek ak : SlotId) (n : Nat) (d : Bool) : (s.pipeline c ek ak n d).pending = s.pending := by
  simp only [State.pipeline, State.authFinish_pending, State.crypt_pending, State.encClean_pending, State.authUpdate_pending, State.authClean_pending]
@[simp] theorem State.pipeline_reply (s : State) (c : Config) (ek ak : SlotId) (n : Nat) (d : Bool) : (s.pipeline c ek ak n d).reply = s.reply := by
  simp only [State.pipeline, State.authFinish_reply, State.crypt_reply, State.encClean_reply, State.authUpdate_reply, State.authClean_reply]
@[simp] theorem State.pipeline_slot (s : State) (c : Config) (ek ak : SlotId) (n : Nat) (d : Bool) (k : SlotId) : (s.pipeline c ek ak n d).slot k = s.slot k := by
  cases k <;> simp only [State.slot, State.pipeline_k0, State.pipeline_k1]

/-! ### `State.install` -/

@[simp] theorem State.install_alen (s : State) (k : SlotId) (key : Key) : (s.install k key).alen = s.alen := by
  cases k <;> rfl
@[simp] theorem State.install_dlen (s : State) (k : SlotId) (key : Key) : (s.install k key).dlen = s.dlen := by
  cases k <;> rfl
@[simp] theorem State.install_klen (s : State) (k : SlotId) (key : Key) : (s.install k key).klen = s.klen := by
  cases k <;> rfl
@[simp] theorem State.install_ivlen (s : State) (k : SlotId) (key : Key) : (s.install k key).ivlen = s.ivlen := by
  cases k <;> rfl
@[simp] theorem State.install_secsz (s : State) (k : SlotId) (key : Key) : (s.install k key).secsz = s.secsz := by
  cases k <;> rfl
@[simp] theorem State.install_err (s : State) (k : SlotId) (key : Key) : (s.install k key).err = s.err := by
  cases k <;> rfl
@[simp] theorem State.install_verdict (s : State) (k : SlotId) (key : Key) : (s.install k key).verdict = s.verdict := by
  cases k <;> rfl
@[simp] theorem State.install_m (s : State) (k : SlotId) (key : Key) : (s.install k key).m = s.m := by
  cases k <;> rfl
@[simp] theorem State.install_ivin (s : State) (k : SlotId) (key : Key) : (s.install k key).ivin = s.ivin := by
  cases k <;> rfl
@[simp] theorem State.install_keyin (s : State) (k : SlotId) (key : Key) : (s.install k key).keyin = s.keyin := by
  cases k <;> rfl
@[simp] theorem State.install_tagin (s : State) (k : SlotId) (key : Key) : (s.install k key).tagin = s.tagin := by
  cases k <;> rfl
@[simp] theorem State.install_tag (s : State) (k : SlotId) (key : Key) : (s.install k key).tag = s.tag := by
  cases k <;> rfl
@[simp] theorem State.install_ain (s : State) (k : SlotId) (key : Key) : (s.install k key).ain = s.ain := by
  cases k <;> rfl
@[simp] theorem State.install_din (s : State) (k : SlotId) (key : Key) : (s.install k key).din = s.din := by
  cases k <;> rfl
@[simp] theorem State.install_dout (s : State) (k : SlotId) (key : Key) : (s.install k key).dout = s.dout := by
  cases k <;> rfl
@[simp] theorem State.install_draws (s : State) (k : SlotId) (key : Key) : (s.install k key).draws = s.draws := by
  cases k <;> rfl
@[simp] theorem State.install_pending (s : State) (k : SlotId) (key : Key) : (s.install k key).pending = s.pending := by
  cases k <;> rfl
@[simp] theorem State.install_reply (s : State) (k : SlotId) (key : Key) : (s.install k key).reply = s.reply := by
  cases k <;> rfl

/-! ### `State.runStream` -/

@[simp] theorem State.runStream_alen (s : State) (c : Config) (u : Slot → Key × Slot) (k : SlotId) (sl : Slot) : (s.runStream c u k sl).alen = s.alen := by
  cases k <;> rfl
@[simp] theorem State.runStream_dlen (s : State) (c : Config) (u : Slot → Key × Slot) (k : SlotId) (sl : Slot) : (s.runStream c u k sl).dlen = s.dlen := by
  cases k <;> rfl
@[simp] theorem State.runStream_klen (s : State) (c : Config) (u : Slot → Key × Slot) (k : SlotId) (sl : Slot) : (s.runStream c u k sl).klen = s.klen := by
  cases k <;> rfl
@[simp] theorem State.runStream_ivlen (s : State) (c : Config) (u : Slot → Key × Slot) (k : SlotId) (sl : Slot) : (s.runStream c u k sl).ivlen = s.ivlen := by
  cases k <;> rfl
@[simp] theorem State.runStream_secsz (s : State) (c : Config) (u : Slot → Key × Slot) (k : SlotId) (sl : Slot) : (s.runStream c u k sl).secsz = s.secsz := by
  cases k <;> rfl
@[simp] theorem State.runStream_err (s : State) (c : Config) (u : Slot → Key × Slot) (k : SlotId) (sl : Slot) : (s.runStream c u k sl).err = s.err := by
  cases k <;> rfl
@[simp] theorem State.runStream_verdict (s : State) (c : Config) (u : Slot → Key × Slot) (k : SlotId) (sl : Slot) : (s.runStream c u k sl).verdict = s.verdict := by
  cases k <;> rfl
@[simp] theorem State.runStream_m (s : State) (c : Config) (u : Slot → Key × Slot) (k : SlotId) (sl : Slot) : (s.runStream c u k sl).m = s.m := by
  cases k <;> rfl
@[simp] theorem State.runStream_ivin (s : State) (c : Config) (u : Slot → Key × Slot) (k : SlotId) (sl : Slot) : (s.runStream c u k sl).ivin = s.ivin := by
  cases k <;> rfl
@[simp] theorem State.runStream_keyin (s : State) (c : Config) (u : Slot → Key × Slot) (k : SlotId) (sl : Slot) : (s.runStream c u k sl).keyin = s.keyin := by
  cases k <;> rfl
@[simp] theorem State.runStream_tagin (s : State) (c : Config) (u : Slot → Key × Slot) (k : SlotId) (sl : Slot) : (s.runStream c u k sl).tagin = s.tagin := by
  cases k <;> rfl
@[simp] theorem State.runStream_tag (s : State) (c : Config) (u : Slot → Key × Slot) (k : SlotId) (sl : Slot) : (s.runStream c u k sl).tag = s.tag := by
  cases k <;> rfl
@[simp] theorem State.runStream_ain (s : State) (c : Config) (u : Slot → Key × Slot) (k : SlotId) (sl : Slot) : (s.runStream c u k sl).ain = s.ain := by
  cases k <;> rfl
@[simp] theorem State.runStream_din (s : State) (c : Config) (u : Slot → Key × Slot) (k : SlotId) (sl : Slot) : (s.runStream c u k sl).din = s.din := by
  cases k <;> rfl
@[simp] theorem State.runStream_draws (s : State) (c : Config) (u : Slot → Key × Slot) (k : SlotId) (sl : Slot) : (s.runStream c u k sl).draws = s.draws := by
  cases k <;> rfl
@[simp] theorem State.runStream_pending (s : State) (c : Config) (u : Slot → Key × Slot) (k : SlotId) (sl : Slot) : (s.runStream c u k sl).pending = s.pending := by
  cases k <;> rfl
@[simp] theorem State.runStream_reply (s : State) (c : Config) (u : Slot → Key × Slot) (k : SlotId) (sl : Slot) : (s.runStream c u k sl).reply = s.reply := by
  cases k <;> rfl

@[simp] theorem State.runStream_slot (s : State) (c : Config) (u : Slot → Key × Slot) (k : SlotId) (sl : Slot) :
    (s.runStream c u k sl).slot k = (stream c u sl (blocks sl.bs s.dataBytes)).1.closeStream s.dlen.toNat := by
  rw [State.runStream_eq, State.writeDout_slot, State.slot_setSlot]

@[simp] theorem State.runStream_slot_other (s : State) (c : Config) (u : Slot → Key × Slot) (k : SlotId) (sl : Slot) :
    (s.runStream c u k sl).slot k.other = s.slot k.other := by
  rw [State.runStream_eq, State.writeDout_slot, State.slot_setSlot_other]

@[simp] theorem State.runStream_dout (s : State) (c : Config) (u : Slot → Key × Slot) (k : SlotId) (sl : Slot) :
    (s.runStream c u k sl).dout = s.dout.writeBytes 0 (stream c u sl (blocks sl.bs s.dataBytes)).2 := by
  cases k <;> rfl

/-! ### Lengths of outputs -/

@[simp] theorem State.length_dataBytes (s : State) : s.dataBytes.length = s.dlen.toNat := by simp [State.dataBytes]

@[simp] theorem State.length_adBytes (s : State) : s.adBytes.length = s.alen.toNat := by simp [State.adBytes]

theorem sum_length_blocks {bs : Nat} (h : 0 < bs) (b : List Byte) :
    ((blocks bs b).map List.length).sum = b.length := by
  rw [← List.length_flatten, flatten_blocks h]

/-- A block is no longer than the keystream block it is combined with, so the output is as long as the data. -/
theorem length_stream {c : Config} {u : Slot → Key × Slot} (hu : ∀ sl, (u sl).2.bs = sl.bs) (sl : Slot)
    (bl : List (List Byte)) (h : ∀ b ∈ bl, b.length ≤ sl.bs) :
    (stream c u sl bl).2.length = (bl.map List.length).sum := by
  induction bl generalizing sl with
  | nil => rfl
  | cons b bl ih =>
    have hb : b.length ≤ (u sl).2.bs := by rw [hu]; exact h b List.mem_cons_self
    have := ih { (u sl).2 with ctr := ctrNext (u sl).2.bs (u sl).2.ctr } fun x hx => by
      have := h x (List.mem_cons_of_mem _ hx)
      rw [← hu sl] at this
      exact this
    simp only [stream, List.length_append, length_xorBytes, length_bytesOf, List.map_cons, List.sum_cons,
      Nat.min_eq_left hb, this]

theorem length_session_crypt {c : Config} {ekey akey : Key} {d : Bool} (m : Session) (bl : List (List Byte))
    (h : ∀ b ∈ bl, b.length ≤ 16) : (m.crypt c ekey akey d bl).2.length = (bl.map List.length).sum := by
  induction bl generalizing m with
  | nil => rfl
  | cons b bl ih =>
    have hb : b.length ≤ 16 := h b List.mem_cons_self
    have hr := fun m' : Session => ih m' fun x hx => h x (List.mem_cons_of_mem _ hx)
    simp only [Session.crypt, List.length_append, length_xorBytes, length_bytesOf, List.map_cons, List.sum_cons,
      Nat.min_eq_left hb, hr]

@[simp] theorem State.length_cryptOutput (s : State) (c : Config) (d : Bool) :
    (s.cryptOutput c d).length = s.dlen.toNat := by
  rw [State.cryptOutput, length_session_crypt _ _ fun b => length_le_of_mem_blocks (by decide),
    sum_length_blocks (by decide), State.length_dataBytes]

theorem length_ecb {bs : Nat} (h : 0 < bs) (f : Block → Block) (b : List Byte) (hb : b.length % bs = 0) :
    (ecb f bs b).length = b.length := by
  have hq := numBlocks_of_mod h hb
  unfold numBlocks at hq
  rw [ecb, List.length_flatten, List.map_map,
    show (List.length ∘ fun b => bytesOf bs (f (blockOf b)).toNat) = fun _ => bs by funext x; simp]
  simp only [List.map_const', List.sum_replicate, length_blocks h, hq, smul_eq_mul]
  exact Nat.div_mul_cancel (Nat.dvd_of_mod_eq_zero hb)

theorem ctrUseKey_bs (sl : Slot) : (ctrUseKey sl).2.bs = sl.bs := rfl

theorem acpkmUseKey_bs (c : Config) (sl : Slot) : (acpkmUseKey c sl).2.bs = sl.bs := by
  unfold acpkmUseKey Slot.nextSection
  split <;> rfl

/-- What the slot keeps through a stream: everything but the counter, the working key and the section position. -/
theorem stream_slot {c : Config} {u : Slot → Key × Slot}
    (hu : ∀ sl, (u sl).2 = { sl with wkey := (u sl).2.wkey, secpos := (u sl).2.secpos }) (sl : Slot)
    (bl : List (List Byte)) :
    (stream c u sl bl).1 =
      { sl with
        ctr := (stream c u sl bl).1.ctr
        wkey := (stream c u sl bl).1.wkey
        secpos := (stream c u sl bl).1.secpos } := by
  induction bl generalizing sl with
  | nil => rfl
  | cons b bl ih =>
    simp only [stream]
    rw [ih]
    generalize (stream c u { (u sl).2 with ctr := ctrNext (u sl).2.bs (u sl).2.ctr } bl).1 = x
    rw [hu sl]

theorem ctrUseKey_slot (sl : Slot) :
    (ctrUseKey sl).2 = { sl with wkey := (ctrUseKey sl).2.wkey, secpos := (ctrUseKey sl).2.secpos } := rfl

theorem acpkmUseKey_slot (c : Config) (sl : Slot) :
    (acpkmUseKey c sl).2 = { sl with wkey := (acpkmUseKey c sl).2.wkey, secpos := (acpkmUseKey c sl).2.secpos } := by
  unfold acpkmUseKey Slot.nextSection
  split <;> rfl

/-- Two chunks, the first of whole blocks, are one. -/
theorem stream_append (c : Config) (u : Slot → Key × Slot) (sl : Slot) (a b : List (List Byte)) :
    stream c u sl (a ++ b) =
      ((stream c u (stream c u sl a).1 b).1, (stream c u sl a).2 ++ (stream c u (stream c u sl a).1 b).2) := by
  induction a generalizing sl with
  | nil => rfl
  | cons x a ih => simp only [List.cons_append, stream, ih, List.append_assoc]

end Sys2Proof.Machine
end

