-- ==== Sys2Proof/Laws/Exec.lean ====
section
/-! SUPPORT. What a command can do, said once for all 20: it raised one of its errors and changed nothing else, or it
passed its checks and ran its Effect. Proofs about every command take the cases of `execWith_cases`. -/

namespace Sys2Proof.Machine

open Sys2Proof

/-- The command passed its checks and ended with `ERR = 0`: the checks, and the state it left. -/
def Ran (c : Config) (i : Instr) (s t : State) : Prop :=
  match i with
  | .kcreate k bs =>
    (bs = 8 ∨ bs = 16) ∧ t = (s.setSlot k { Slot.zeroized with st := .created, bs16 := bs == 16 }).finish
  | .kset k _ => (s.slot k).st ≠ .empty ∧ t = (s.install k s.keyBytesIn).finish
  | .ksetrnd k _ => (s.slot k).st ≠ .empty ∧ ∃ r, c.rng s.draws keyBytes = some r ∧ t = (s.drawn.install k r).finish
  | .ksetpwd k _ => (s.slot k).st ≠ .empty ∧ ∃ d, t = (s.install k d).finish
  | .kenc k =>
    (s.slot k).st = .keyed ∧ s.dlen.toNat = (s.slot k).bs ∧
      t = (s.writeDout (bytesOf (s.slot k).bs
        (blockEnc c (s.slot k).bs16 (s.slot k).key (blockOf (s.din.readBytes 0 (s.slot k).bs))).toNat)).finish
  | .kdec k =>
    (s.slot k).st = .keyed ∧ s.dlen.toNat = (s.slot k).bs ∧
      t = (s.writeDout (bytesOf (s.slot k).bs
        (blockDec c (s.slot k).bs16 (s.slot k).key (blockOf (s.din.readBytes 0 (s.slot k).bs))).toNat)).finish
  | .kdestroy k => t = (s.setSlot k Slot.zeroized).finish
  | .ecbenc k =>
    (s.slot k).st = .keyed ∧ s.dlen.toNat ≤ c.bufBytes ∧ s.dlen.toNat % (s.slot k).bs = 0 ∧
      t = (s.writeDout (ecb (blockEnc c (s.slot k).bs16 (s.slot k).key) (s.slot k).bs s.dataBytes)).finish
  | .ecbdec k =>
    (s.slot k).st = .keyed ∧ s.dlen.toNat ≤ c.bufBytes ∧ s.dlen.toNat % (s.slot k).bs = 0 ∧
      t = (s.writeDout (ecb (blockDec c (s.slot k).bs16 (s.slot k).key) (s.slot k).bs s.dataBytes)).finish
  | .ctr k first =>
    (first = true ∨ ((s.slot k).live = true ∧ (s.slot k).kind = .ctr)) ∧ (s.slot k).st = .keyed ∧
      s.dlen.toNat ≤ c.bufBytes ∧ (first = true → s.ivlen.toNat = (s.slot k).bs / 2) ∧
      t = (s.runStream c ctrUseKey k
        (if first then (s.slot k).openCtr (s.ivBytes ((s.slot k).bs / 2)) else s.slot k)).finish
  | .acpkm k first =>
    (first = true ∨ ((s.slot k).live = true ∧ (s.slot k).kind = .acpkm)) ∧ (s.slot k).st = .keyed ∧
      s.dlen.toNat ≤ c.bufBytes ∧ (first = true → s.secsz.toNat ≠ 0 ∧ s.secsz.toNat % (s.slot k).bs = 0) ∧
      (first = true → s.ivlen.toNat = (s.slot k).bs / 2) ∧
      t = (s.runStream c (acpkmUseKey c) k
        (if first then (s.slot k).openAcpkm (s.ivBytes ((s.slot k).bs / 2)) s.secsz else s.slot k)).finish
  | .omac k =>
    (s.slot k).st = .keyed ∧ s.dlen.toNat ≤ c.bufBytes ∧
      t = (s.writeTag (bytesOf (s.slot k).bs
        (omac (s.slot k).bs16 (s.slot k).bs (blockEnc c (s.slot k).bs16 (s.slot k).key) s.dataBytes).toNat ++
        zeros (16 - (s.slot k).bs))).finish
  | .mgmaclean ek ak =>
    UsableInMgm s ek ∧ UsableInMgm s ak ∧ s.ivlen.toNat < 16 ∧ t = (s.authClean c ek ak).finish
  | .mgmaupd =>
    s.m.phase = .auth ∧ s.m.aclosed = false ∧ s.alen.toNat ≤ c.bufBytes ∧ UsableInMgm s s.m.ak ∧
      s.m.abits.toNat + 8 * s.alen.toNat ≤ maxBits ∧ t = (s.authUpdate c).finish
  | .mgmeclean => s.m.phase = .auth ∧ UsableInMgm s s.m.ek ∧ t = (s.encClean c).finish
  | .mgmenc =>
    s.m.phase = .enc ∧ s.m.eclosed = false ∧ s.dlen.toNat ≤ c.bufBytes ∧ UsableInMgm s s.m.ek ∧
      UsableInMgm s s.m.ak ∧ s.m.pbits.toNat + 8 * s.dlen.toNat ≤ maxBits ∧ t = (s.crypt c false).finish
  | .mgmdec =>
    s.m.phase = .enc ∧ s.m.eclosed = false ∧ s.dlen.toNat ≤ c.bufBytes ∧ UsableInMgm s s.m.ek ∧
      UsableInMgm s s.m.ak ∧ s.m.pbits.toNat + 8 * s.dlen.toNat ≤ maxBits ∧ t = (s.crypt c true).finish
  | .mgmfin taglen =>
    (s.m.phase = .auth ∨ s.m.phase = .enc) ∧ 4 ≤ taglen ∧ taglen ≤ 16 ∧ UsableInMgm s s.m.ak ∧
      t = (s.authFinish c taglen).finish
  | .mgmencall ek ak taglen =>
    PipelineReady c ek ak taglen s ∧ t = (s.pipeline c ek ak taglen false).finish
  | .mgmdecall ek ak taglen =>
    PipelineReady c ek ak taglen s ∧ (s.pipeline c ek ak taglen true).tagDiff taglen = 0 ∧
      t = (s.pipeline c ek ak taglen true).finishVerified

/-- The ways a command ends other than running to its end: `raise` with nothing changed (of `KSETRND`, only its check
before the draw), `raise` after the draw of `KSETRND`, and the mismatch of `MGMDECALL`. -/
def Failed (c : Config) (i : Instr) (s t : State) : Prop :=
  (∃ e, e ∈ possibleErrors i ∧ e ≠ .authenticationFailed ∧ (i.opcode = .ksetrnd → e = .invalidParameter) ∧
    t = s.raise e) ∨
  (∃ k v e, i = .ksetrnd k v ∧ (e = .randomSourceExhausted ∨ e = .scheduleFailure) ∧ t = s.drawn.raise e) ∨
  (∃ ek ak taglen, i = .mgmdecall ek ak taglen ∧ PipelineReady c ek ak taglen s ∧
    (s.pipeline c ek ak taglen true).tagDiff taglen ≠ 0 ∧
    t = ((s.pipeline c ek ak taglen true).withholdOutput).raise .authenticationFailed)

/-! ### Checks as propositions -/

theorem notKeyed_eq_false {s : State} {k : SlotId} : s.notKeyed k = false ↔ (s.slot k).st = .keyed := by
  simp [State.notKeyed]

theorem slotEmpty_eq_false {s : State} {k : SlotId} : s.slotEmpty k = false ↔ (s.slot k).st ≠ .empty := by
  simp [State.slotEmpty]

theorem dataTooBig_eq_false {s : State} {c : Config} : s.dataTooBig c = false ↔ s.dlen.toNat ≤ c.bufBytes := by
  simp [State.dataTooBig]

theorem adTooBig_eq_false {s : State} {c : Config} : s.adTooBig c = false ↔ s.alen.toNat ≤ c.bufBytes := by
  simp [State.adTooBig]

theorem mgmKeyOk_iff {s : State} {k : SlotId} : s.mgmKeyOk k = true ↔ UsableInMgm s k := by
  simp [State.mgmKeyOk, UsableInMgm]

theorem partialChunk_eq_false {bs len : Nat} : partialChunk bs len = false ↔ len % bs = 0 := by
  simp [partialChunk]

theorem tooLong_eq_false {n : DWord} {len : Nat} : tooLong n len = false ↔ n.toNat + 8 * len ≤ maxBits := by
  simp [tooLong]

theorem badTagLength_eq_false {t : Nat} : badTagLength t = false ↔ 4 ≤ t ∧ t ≤ 16 := by
  simp [badTagLength]

theorem noStream_eq_false {sl : Slot} {kind : StreamKind} :
    sl.noStream kind = false ↔ sl.live = true ∧ sl.kind = kind := by
  simp [Slot.noStream]

theorem badSection_eq_false {bs : Nat} {n : Word} :
    badSection bs n = false ↔ n.toNat ≠ 0 ∧ n.toNat % bs = 0 := by
  simp [badSection, partialChunk]

theorem pipelineChecks_none {s : State} {c : Config} {ek ak : SlotId} {taglen : Nat} :
    firstFailing (s.pipelineChecks c ek ak taglen) = none ↔ PipelineReady c ek ak taglen s := by
  simp only [State.pipelineChecks, firstFailing_eq_none_iff, List.forall_mem_cons, List.not_mem_nil, false_implies,
    implies_true, and_true, Bool.or_eq_false_iff, Bool.not_eq_false', mgmKeyOk_iff, badTagLength_eq_false,
    adTooBig_eq_false, dataTooBig_eq_false, decide_eq_false_iff_not, not_le]
  constructor
  · rintro ⟨⟨h1, h2⟩, ⟨h3, h4⟩, ⟨h5, h6⟩, h7⟩
    exact ⟨h1, h2, h3, h4, h5, h6, h7⟩
  · rintro ⟨h1, h2, h3, h4, h5, h6, h7⟩
    exact ⟨⟨h1, h2⟩, ⟨h3, h4⟩, ⟨h5, h6⟩, h7⟩

/-! ### The cases -/

/-- A command over a list of checks whose errors are all the command's own. -/
theorem command_ran_or_failed {c : Config} {i : Instr} {s t : State} {cs : List (Bool × ErrCode)}
    {effect : State → State} (he : ∀ p ∈ cs, p.2 ∈ possibleErrors i ∧ p.2 ≠ .authenticationFailed)
    (hd : i.opcode ≠ .ksetrnd)
    (hr : firstFailing cs = none → Ran c i s (effect s).finish) (h : s.command cs effect = .next t) :
    Ran c i s t ∨ Failed c i s t := by
  rcases State.command_cases h with ⟨e, h1, rfl⟩ | ⟨h1, rfl⟩
  · have hm := he _ (firstFailing_some h1)
    exact .inr (.inl ⟨e, hm.1, hm.2, fun h => absurd h hd, rfl⟩)
  · exact .inl (hr h1)

/-- What every command can do. -/
theorem execWith_cases {c : Config} {i : Instr} {s t : State} (h : execWith c i s = .next t) :
    Ran c i s t ∨ Failed c i s t := by
  cases i with
  | kcreate k bs =>
    simp only [execWith, execKcreate] at h
    refine command_ran_or_failed (by simp [possibleErrors]) nofun (fun hc => ?_) h
    simp only [firstFailing_eq_none_iff, List.forall_mem_cons, Bool.not_eq_false', Bool.or_eq_true, beq_iff_eq] at hc
    exact ⟨hc.1, rfl⟩
  | kset k v =>
    simp only [execWith, ksetWith] at h
    refine command_ran_or_failed (by simp [possibleErrors]) nofun (fun hc => ?_) h
    simp only [firstFailing_eq_none_iff, List.forall_mem_cons, slotEmpty_eq_false] at hc
    exact ⟨hc.1, rfl⟩
  | ksetrnd k v =>
    simp only [execWith, ksetrndWith] at h
    split at h
    · injection h with h
      exact .inr (.inl ⟨_, by simp [possibleErrors], by decide, fun _ => rfl, h.symm⟩)
    · rename_i he
      split at h
      · injection h with h
        exact .inr (.inr (.inl ⟨k, v, _, rfl, .inl rfl, h.symm⟩))
      · rename_i r hr
        rcases State.command_cases h with ⟨e, h1, rfl⟩ | ⟨h1, rfl⟩
        · have := firstFailing_some h1
          simp only [List.mem_singleton, Prod.mk.injEq] at this
          exact .inr (.inr (.inl ⟨k, v, e, rfl, .inr this.2, rfl⟩))
        · exact .inl ⟨slotEmpty_eq_false.mp (by simpa using he), r, hr, rfl⟩
  | ksetpwd k v =>
    simp only [execWith, ksetpwdWith] at h
    split at h
    · rename_i e he
      injection h with h
      have := firstFailing_some he
      simp only [List.mem_cons, Prod.mk.injEq, List.not_mem_nil, or_false] at this
      refine .inr (.inl ⟨e, ?_, ?_, nofun, h.symm⟩) <;> rcases this with ⟨_, rfl⟩ | ⟨_, rfl⟩ <;> simp [possibleErrors]
    · rename_i hc
      simp only [firstFailing_eq_none_iff, List.forall_mem_cons, slotEmpty_eq_false] at hc
      split at h
      · injection h with h
        exact .inr (.inl ⟨_, by simp [possibleErrors], by decide, nofun, h.symm⟩)
      · rename_i d hd
        rcases State.command_cases h with ⟨e, h1, rfl⟩ | ⟨h1, rfl⟩
        · have := firstFailing_some h1
          simp only [List.mem_singleton, Prod.mk.injEq] at this
          exact .inr (.inl ⟨e, by simp [possibleErrors, this.2], by simp [this.2], nofun, rfl⟩)
        · exact .inl ⟨hc.1, d, rfl⟩
  | kenc k =>
    simp only [execWith, kencWith, State.oneBlock] at h
    refine command_ran_or_failed (by simp [possibleErrors]) nofun (fun hc => ?_) h
    simp only [firstFailing_eq_none_iff, List.forall_mem_cons, notKeyed_eq_false, bne_eq_false_iff_eq] at hc
    exact ⟨hc.1, hc.2.1, rfl⟩
  | kdec k =>
    simp only [execWith, kdecWith, State.oneBlock] at h
    refine command_ran_or_failed (by simp [possibleErrors]) nofun (fun hc => ?_) h
    simp only [firstFailing_eq_none_iff, List.forall_mem_cons, notKeyed_eq_false, bne_eq_false_iff_eq] at hc
    exact ⟨hc.1, hc.2.1, rfl⟩
  | kdestroy k =>
    simp only [execWith, execKdestroy] at h
    rcases State.command_cases h with ⟨e, h1, _⟩ | ⟨_, rfl⟩
    · cases h1
    · exact .inl rfl
  | ecbenc k =>
    simp only [execWith, ecbencWith, State.ecbCommand] at h
    refine command_ran_or_failed (by simp [possibleErrors]) nofun (fun hc => ?_) h
    simp only [firstFailing_eq_none_iff, List.forall_mem_cons, notKeyed_eq_false, dataTooBig_eq_false,
      partialChunk_eq_false] at hc
    exact ⟨hc.1, hc.2.1, hc.2.2.1, rfl⟩
  | ecbdec k =>
    simp only [execWith, ecbdecWith, State.ecbCommand] at h
    refine command_ran_or_failed (by simp [possibleErrors]) nofun (fun hc => ?_) h
    simp only [firstFailing_eq_none_iff, List.forall_mem_cons, notKeyed_eq_false, dataTooBig_eq_false,
      partialChunk_eq_false] at hc
    exact ⟨hc.1, hc.2.1, hc.2.2.1, rfl⟩
  | ctr k first =>
    simp only [execWith, ctrWith] at h
    refine command_ran_or_failed (by simp [possibleErrors]) nofun (fun hc => ?_) h
    simp only [firstFailing_eq_none_iff, List.forall_mem_cons, notKeyed_eq_false, dataTooBig_eq_false] at hc
    obtain ⟨h1, h2, h3, h4, _⟩ := hc
    refine ⟨?_, h2, h3, ?_, rfl⟩
    · cases first
      · exact .inr (noStream_eq_false.mp (by simpa using h1))
      · exact .inl rfl
    · rintro rfl
      simpa using h4
  | acpkm k first =>
    simp only [execWith, acpkmWith] at h
    refine command_ran_or_failed (by simp [possibleErrors]) nofun (fun hc => ?_) h
    simp only [firstFailing_eq_none_iff, List.forall_mem_cons, notKeyed_eq_false, dataTooBig_eq_false] at hc
    obtain ⟨h1, h2, h3, h4, h5, _⟩ := hc
    refine ⟨?_, h2, h3, ?_, ?_, rfl⟩
    · cases first
      · exact .inr (noStream_eq_false.mp (by simpa using h1))
      · exact .inl rfl
    · rintro rfl
      exact badSection_eq_false.mp (by simpa using h4)
    · rintro rfl
      simpa using h5
  | omac k =>
    simp only [execWith, omacWith] at h
    refine command_ran_or_failed (by simp [possibleErrors]) nofun (fun hc => ?_) h
    simp only [firstFailing_eq_none_iff, List.forall_mem_cons, notKeyed_eq_false, dataTooBig_eq_false] at hc
    exact ⟨hc.1, hc.2.1, rfl⟩
  | mgmaclean ek ak =>
    simp only [execWith, mgmacleanWith] at h
    refine command_ran_or_failed (by simp [possibleErrors]) nofun (fun hc => ?_) h
    simp only [firstFailing_eq_none_iff, List.forall_mem_cons, Bool.or_eq_false_iff, Bool.not_eq_false', mgmKeyOk_iff,
      decide_eq_false_iff_not, not_le] at hc
    exact ⟨hc.1.1, hc.1.2, hc.2.1, rfl⟩
  | mgmaupd =>
    simp only [execWith, mgmaupdWith] at h
    refine command_ran_or_failed (by simp [possibleErrors]) nofun (fun hc => ?_) h
    simp only [firstFailing_eq_none_iff, List.forall_mem_cons, Bool.or_eq_false_iff, Bool.not_eq_false', mgmKeyOk_iff,
      bne_eq_false_iff_eq, adTooBig_eq_false, tooLong_eq_false] at hc
    exact ⟨hc.1.1, hc.1.2, hc.2.1, hc.2.2.1, hc.2.2.2.1, rfl⟩
  | mgmeclean =>
    simp only [execWith, mgmecleanWith] at h
    refine command_ran_or_failed (by simp [possibleErrors]) nofun (fun hc => ?_) h
    simp only [firstFailing_eq_none_iff, List.forall_mem_cons, Bool.not_eq_false', mgmKeyOk_iff,
      bne_eq_false_iff_eq] at hc
    exact ⟨hc.1, hc.2.1, rfl⟩
  | mgmenc =>
    simp only [execWith, mgmencWith] at h
    refine command_ran_or_failed (by simp [possibleErrors, State.cryptChecks]) nofun (fun hc => ?_) h
    simp only [State.cryptChecks, firstFailing_eq_none_iff, List.forall_mem_cons, Bool.or_eq_false_iff,
      Bool.not_eq_false', mgmKeyOk_iff, bne_eq_false_iff_eq, dataTooBig_eq_false, tooLong_eq_false] at hc
    exact ⟨hc.1.1, hc.1.2, hc.2.1, hc.2.2.1.1, hc.2.2.1.2, hc.2.2.2.1, rfl⟩
  | mgmdec =>
    simp only [execWith, mgmdecWith] at h
    refine command_ran_or_failed (by simp [possibleErrors, State.cryptChecks]) nofun (fun hc => ?_) h
    simp only [State.cryptChecks, firstFailing_eq_none_iff, List.forall_mem_cons, Bool.or_eq_false_iff,
      Bool.not_eq_false', mgmKeyOk_iff, bne_eq_false_iff_eq, dataTooBig_eq_false, tooLong_eq_false] at hc
    exact ⟨hc.1.1, hc.1.2, hc.2.1, hc.2.2.1.1, hc.2.2.1.2, hc.2.2.2.1, rfl⟩
  | mgmfin taglen =>
    simp only [execWith, mgmfinWith] at h
    refine command_ran_or_failed (by simp [possibleErrors]) nofun (fun hc => ?_) h
    simp only [firstFailing_eq_none_iff, List.forall_mem_cons, Bool.and_eq_false_iff, Bool.not_eq_false',
      mgmKeyOk_iff, bne_eq_false_iff_eq, badTagLength_eq_false] at hc
    exact ⟨hc.1, hc.2.1.1, hc.2.1.2, hc.2.2.1, rfl⟩
  | mgmencall ek ak taglen =>
    simp only [execWith, mgmencallWith] at h
    refine command_ran_or_failed (by simp [possibleErrors, State.pipelineChecks]) nofun (fun hc => ?_) h
    exact ⟨pipelineChecks_none.mp hc, rfl⟩
  | mgmdecall ek ak taglen =>
    simp only [execWith, mgmdecallWith] at h
    split at h
    · rename_i e he
      injection h with h
      have := firstFailing_some he
      simp only [State.pipelineChecks, List.mem_cons, Prod.mk.injEq, List.not_mem_nil, or_false] at this
      refine .inr (.inl ⟨e, ?_, ?_, nofun, h.symm⟩) <;>
        rcases this with ⟨_, rfl⟩ | ⟨_, rfl⟩ | ⟨_, rfl⟩ | ⟨_, rfl⟩ <;> simp [possibleErrors]
    · rename_i hc
      have hc := pipelineChecks_none.mp hc
      split at h
      · rename_i hd
        injection h with h
        exact .inl ⟨hc, hd, h.symm⟩
      · rename_i hd
        injection h with h
        exact .inr (.inr (.inr ⟨ek, ak, taglen, rfl, hc, hd, h.symm⟩))

/-- What every command of the machine can do. -/
theorem exec_cases {i : Instr} {s t : State} (h : exec i s = .next t) :
    Ran Config.machine i s t ∨ Failed Config.machine i s t := by
  rw [exec_eq_execWith] at h
  exact execWith_cases h

/-- Every command answers a next state. -/
theorem execWith_next (c : Config) (i : Instr) (s : State) : ∃ t, execWith c i s = .next t := by
  cases hr : execWith c i s with
  | next t => exact ⟨t, rfl⟩
  | fault f => exact nomatch f
  | refused r =>
    exfalso
    cases i <;>
      simp only [execWith, execKcreate, ksetWith, ksetrndWith, ksetpwdWith, kencWith, kdecWith, State.oneBlock,
        execKdestroy, ecbencWith, ecbdecWith, State.ecbCommand, ctrWith, acpkmWith, omacWith, mgmacleanWith,
        mgmaupdWith, mgmecleanWith, mgmencWith, mgmdecWith, mgmfinWith, mgmencallWith, mgmdecallWith,
        State.command] at hr <;>
      (repeat' split at hr) <;> cases hr

end Sys2Proof.Machine
end

