-- ==== Sys2Proof/Laws/HostPort.lean ====
section
/-! SUPPORT. What one step does with each kind of transaction, said once: nothing pending, a transaction outside the
interface, a command, and every other request. -/

namespace Sys2Proof.Machine

open Sys2Proof

/-! ### The step by the request -/

theorem step_of_idle {s : State} (h : s.pending = []) : step s = .next s := by
  simp only [step, transact, h]

theorem step_of_error {s : State} {t : Transaction} {rest : List Transaction} {r : Refusal}
    (h : s.pending = t :: rest) (hr : request Config.machine t = .error r) : step s = .refused r := by
  simp only [step, transact, h, hr]

theorem step_of_command {s : State} {t : Transaction} {rest : List Transaction} {w : Word}
    (h : s.pending = t :: rest) (hr : request Config.machine t = .ok (.command w)) :
    step s = runWord exec w (s.accept rest) := by
  simp only [step, transact, h, hr]

theorem step_of_request {s : State} {t : Transaction} {rest : List Transaction} {q : Request}
    (h : s.pending = t :: rest) (hr : request Config.machine t = .ok q) (hq : ∀ w, q ≠ .command w) :
    step s = .next ((s.accept rest).serve q) := by
  cases q with
  | command w => exact absurd rfl (hq w)
  | _ => simp only [step, transact, h, hr]

/-- A step either waits, or refuses, or runs a command, or serves another request. -/
theorem step_cases {s t : State} (h : step s = .next t) :
    (s.pending = [] ∧ t = s) ∨
    (∃ tr rest w, s.pending = tr :: rest ∧ request Config.machine tr = .ok (.command w) ∧
      runWord exec w (s.accept rest) = .next t) ∨
    ∃ tr rest q, s.pending = tr :: rest ∧ request Config.machine tr = .ok q ∧ (∀ w, q ≠ .command w) ∧
      t = (s.accept rest).serve q := by
  cases hp : s.pending with
  | nil =>
    rw [step_of_idle hp] at h
    injection h with h
    exact .inl ⟨rfl, h.symm⟩
  | cons tr rest =>
    cases hr : request Config.machine tr with
    | error r => rw [step_of_error hp hr] at h; cases h
    | ok q =>
      by_cases hq : ∀ w, q ≠ .command w
      · rw [step_of_request hp hr hq] at h
        injection h with h
        exact .inr (.inr ⟨tr, rest, q, rfl, hr, hq, h.symm⟩)
      · push Not at hq
        obtain ⟨w, rfl⟩ := hq
        rw [step_of_command hp hr] at h
        exact .inr (.inl ⟨tr, rest, w, rfl, hr, h⟩)

/-! ### Requests -/

theorem toNat_setWidth_64 (w : Word) : (w.setWidth 64).toNat = w.toNat := by
  have := w.isLt
  rw [BitVec.toNat_setWidth]
  exact Nat.mod_eq_of_lt (by omega)

theorem setWidth_32_64 (w : Word) : (w.setWidth 64).setWidth 32 = w := by
  apply BitVec.eq_of_toNat_eq
  have := w.isLt
  rw [BitVec.toNat_setWidth, toNat_setWidth_64]
  exact Nat.mod_eq_of_lt this

/-- A 32-bit value fits every register. -/
theorem writeRequest_word {n : Nat} {r : Reg} (h : Reg.ofNumber n = some r) (w : Word) :
    writeRequest n (w.setWidth 64) = if r = .cmd then .ok (.command w) else .ok (.writeReg r (w.setWidth 64)) := by
  have hlt := w.isLt
  have hw : ¬ 2 ^ r.width ≤ (w.setWidth 64).toNat := by
    rw [toNat_setWidth_64]
    have : 2 ^ 32 ≤ 2 ^ r.width := Nat.pow_le_pow_right (by decide) (by cases r <;> decide)
    omega
  simp only [writeRequest, h, hw, if_false, setWidth_32_64]

theorem request_command (c : Config) (w : Word) : request c (.wr 0x00 (w.setWidth 64)) = .ok (.command w) :=
  writeRequest_word (n := 0x00) rfl w

/-- `commandWrite` is `WR CMD` of the word. -/
theorem commandWrite_toNat (w : Word) : commandWrite w.toNat = .wr 0x00 (w.setWidth 64) := by
  have : BitVec.ofNat 64 w.toNat = w.setWidth 64 := by
    apply BitVec.eq_of_toNat_eq
    simp
  rw [commandWrite, this]
  rfl

/-- The numbers and sizes of the buffers as the table writes them out. -/
theorem of_mem_bufferTable {c : Config} {n size : Nat} {sp : Space} (h : (n, sp, size) ∈ bufferTable c) :
    Space.ofNumber n = some sp ∧ size = sp.size c := by
  have row : ∀ r ∈ bufferTable c, Space.ofNumber r.1 = some r.2.1 ∧ r.2.2 = r.2.1.size c := by
    simp [bufferTable, Space.ofNumber, Space.size]
  exact row _ h

theorem mem_bufferTable {c : Config} {n : Nat} {sp : Space} (h : Space.ofNumber n = some sp) :
    (n, sp, sp.size c) ∈ bufferTable c := by
  unfold Space.ofNumber at h
  split at h <;> first | (injection h with h; subst h; simp [bufferTable, Space.size]) | cases h

/-- An access inside a buffer is a request. -/
theorem spaceRequest_inside {c : Config} {n size off k : Nat} {sp : Space} (h : (n, sp, size) ∈ bufferTable c)
    (hk : 1 ≤ k) (hs : off + k ≤ size) (q : Space → Request) : spaceRequest c n off k q = .ok (q sp) := by
  obtain ⟨hn, rfl⟩ := of_mem_bufferTable h
  have e : accessRefused (sp.size c) off k = none := by
    unfold accessRefused
    rw [if_neg (by omega), if_neg (by omega)]
  simp only [spaceRequest, hn, e]

theorem request_wrb {c : Config} {n size off : Nat} {sp : Space} {b : List Byte}
    (h : (n, sp, size) ∈ bufferTable c) (hk : 1 ≤ b.length) (hs : off + b.length ≤ size) :
    request c (.wrb n off b) = .ok (.writeSpace sp off b) :=
  spaceRequest_inside h hk hs fun sp => .writeSpace sp off b

theorem request_rdb {c : Config} {n size off k : Nat} {sp : Space} (h : (n, sp, size) ∈ bufferTable c) (hk : 1 ≤ k)
    (hs : off + k ≤ size) : request c (.rdb n off k) = .ok (.readSpace sp off k) :=
  spaceRequest_inside h hk hs fun sp => .readSpace sp off k

theorem request_wr {c : Config} {n : Nat} {r : Reg} (h : Reg.ofNumber n = some r) (hr : r ≠ .cmd) (w : Word) :
    request c (.wr n (w.setWidth 64)) = .ok (.writeReg r (w.setWidth 64)) := by
  rw [request, writeRequest_word h, if_neg hr]

end Sys2Proof.Machine
end

