-- ==== Sys2Proof/Laws/PerInstr.lean ====
section
/-! SUPPORT. Statements made of every command, one lemma per constructor of `Instr`: the encoded word of a well-formed
command selects the command's row of spec/opcode_table.json. -/

namespace Sys2Proof.Laws.EncodedBits

open Sys2Proof

/-- The encoded word of a well-formed command agrees with the `match` of its row under the row's `mask` (R74). -/
def Statement (i : Instr) : Prop := i.wf = true → encode i &&& i.opcode.tableMask = i.opcode.tableMatch

theorem kcreate (k : SlotId) (bs : Nat) : Statement (.kcreate k bs) := by
  intro h
  have hlt : bs < 32 := by simpa [Instr.wf, argFits] using h
  clear h
  cases k <;> interval_cases bs <;> rfl

theorem kset (k : SlotId) (validate : Bool) : Statement (.kset k validate) := fun _ => by
  cases k <;> cases validate <;> rfl

theorem ksetrnd (k : SlotId) (validate : Bool) : Statement (.ksetrnd k validate) := fun _ => by
  cases k <;> cases validate <;> rfl

theorem ksetpwd (k : SlotId) (validate : Bool) : Statement (.ksetpwd k validate) := fun _ => by
  cases k <;> cases validate <;> rfl

theorem kenc (k : SlotId) : Statement (.kenc k) := fun _ => by cases k <;> rfl

theorem kdec (k : SlotId) : Statement (.kdec k) := fun _ => by cases k <;> rfl

theorem kdestroy (k : SlotId) : Statement (.kdestroy k) := fun _ => by cases k <;> rfl

theorem ecbenc (k : SlotId) : Statement (.ecbenc k) := fun _ => by cases k <;> rfl

theorem ecbdec (k : SlotId) : Statement (.ecbdec k) := fun _ => by cases k <;> rfl

theorem ctr (k : SlotId) (first : Bool) : Statement (.ctr k first) := fun _ => by
  cases k <;> cases first <;> rfl

theorem acpkm (k : SlotId) (first : Bool) : Statement (.acpkm k first) := fun _ => by
  cases k <;> cases first <;> rfl

theorem omac (k : SlotId) : Statement (.omac k) := fun _ => by cases k <;> rfl

theorem mgmaclean (ek ak : SlotId) : Statement (.mgmaclean ek ak) := fun _ => by
  cases ek <;> cases ak <;> rfl

theorem mgmaupd : Statement .mgmaupd := fun _ => rfl

theorem mgmeclean : Statement .mgmeclean := fun _ => rfl

theorem mgmenc : Statement .mgmenc := fun _ => rfl

theorem mgmdec : Statement .mgmdec := fun _ => rfl

theorem mgmfin (taglen : Nat) : Statement (.mgmfin taglen) := by
  intro h
  have hlt : taglen < 32 := by simpa [Instr.wf, argFits] using h
  clear h
  interval_cases taglen <;> rfl

theorem mgmencall (ek ak : SlotId) (taglen : Nat) : Statement (.mgmencall ek ak taglen) := by
  intro h
  have hlt : taglen < 32 := by simpa [Instr.wf, argFits] using h
  clear h
  cases ek <;> cases ak <;> interval_cases taglen <;> rfl

theorem mgmdecall (ek ak : SlotId) (taglen : Nat) : Statement (.mgmdecall ek ak taglen) := by
  intro h
  have hlt : taglen < 32 := by simpa [Instr.wf, argFits] using h
  clear h
  cases ek <;> cases ak <;> interval_cases taglen <;> rfl

end Sys2Proof.Laws.EncodedBits
end

