-- ==== Sys2Proof/Tests/Toy.lean ====
section
/-! SUPPORT. Configuration TOY of spec/95_test_vectors.md section 2, with which the spec's vectors are computed. -/

namespace Sys2Proof.Tests

open Sys2Proof Sys2Proof.Machine

theorem rotate_right_left {w : Nat} (v : BitVec w) (r : Nat) : (v.rotateLeft r).rotateRight r = v := by
  ext i hi
  have := Nat.mod_lt r (show 0 < w by omega)
  simp only [BitVec.getElem_rotateLeft, BitVec.getElem_rotateRight]
  repeat' split
  all_goals first | omega | (congr 1; omega)

theorem rotate_left_right {w : Nat} (v : BitVec w) (r : Nat) : (v.rotateRight r).rotateLeft r = v := by
  ext i hi
  have := Nat.mod_lt r (show 0 < w by omega)
  simp only [BitVec.getElem_rotateLeft, BitVec.getElem_rotateRight]
  repeat' split
  all_goals first | omega | (congr 1; omega)

/-- `ka(key)`: the first `bs` key bytes. -/
def toyKa (n bs : Nat) (key : Key) : BitVec n := BitVec.ofNat n (be (key.toList.take bs))

/-- `kb(key)`: the last `bs` key bytes. -/
def toyKb (n bs : Nat) (key : Key) : BitVec n := BitVec.ofNat n (be (key.toList.drop (32 - bs)))

/-- TOY `Enc(8, key, x) = rotl_n((x + ka) mod 2^n, 3) xor kb`, with its inverse. -/
def toyCipherA (key : Key) : Equiv.Perm (BitVec 64) where
  toFun x := (x + toyKa 64 8 key).rotateLeft 3 ^^^ toyKb 64 8 key
  invFun y := (y ^^^ toyKb 64 8 key).rotateRight 3 - toyKa 64 8 key
  left_inv x := by
    simp only [BitVec.xor_assoc, BitVec.xor_self, BitVec.xor_zero, rotate_right_left, BitVec.add_sub_cancel]
  right_inv y := by
    simp only [BitVec.sub_add_cancel, rotate_left_right, BitVec.xor_assoc, BitVec.xor_self, BitVec.xor_zero]

/-- TOY `Enc(16, key, x)`, with its inverse. -/
def toyCipherB (key : Key) : Equiv.Perm (BitVec 128) where
  toFun x := (x + toyKa 128 16 key).rotateLeft 3 ^^^ toyKb 128 16 key
  invFun y := (y ^^^ toyKb 128 16 key).rotateRight 3 - toyKa 128 16 key
  left_inv x := by
    simp only [BitVec.xor_assoc, BitVec.xor_self, BitVec.xor_zero, rotate_right_left, BitVec.add_sub_cancel]
  right_inv y := by
    simp only [BitVec.sub_add_cancel, rotate_left_right, BitVec.xor_assoc, BitVec.xor_self, BitVec.xor_zero]

/-- TOY `KDF(pwd, salt, k)`. -/
def toyKdf (pwd salt : List Byte) (k : Nat) : Option (Vector Byte k) :=
  if pwd = [] then none
  else
    let s := pwd ++ salt
    some (Vector.ofFn fun i => s.getD (i.val % s.length) 0 + BitVec.ofNat 8 i.val)

/-- TOY with an answer for each draw of the random source and `BUF_BYTES = 256`. -/
def toyWith (rng : Nat → (k : Nat) → Option (Vector Byte k)) : Config :=
  withDefaults
    { cipherA := toyCipherA
      cipherB := toyCipherB
      scheduleOk := fun _ key validate => !(validate && decide (key = zeroKey))
      gfmul := gfmulDefault
      incrZ := incrZDefault
      incrY := incrYDefault
      acpkmNext := fun _ key => key
      kdf := toyKdf
      rng := rng
      bufUnits := 12 }

/-- TOY with a random source that answers `0xA5` bytes. -/
def toy : Config := toyWith fun _ k => some (Vector.replicate k 0xA5)

/-- TOY with an exhausted random source. -/
def toyExhausted : Config := toyWith fun _ _ => none

end Sys2Proof.Tests
end

