-- ==== Sys2Proof/Tests/Slice0.lean ====
section
/-! SUPPORT. The tests of the model: the well-formedness checks, the decoding of one word of every command, written out
from spec/30_encoding.md, and single steps whose results are the vectors of spec/95_test_vectors.md (V…), computed
there under configuration TOY. -/

namespace Sys2Proof.Tests

open Sys2Proof Sys2Proof.Machine

/-! ### Well-formedness: `ARG` is 5 bits -/

theorem test_wf_refuses_wide_block_size : (Instr.kcreate .slot0 32).wf = false := by decide
theorem test_wf_refuses_wide_taglen_fin : (Instr.mgmfin 32).wf = false := by decide
theorem test_wf_refuses_wide_taglen_encall : (Instr.mgmencall .slot0 .slot1 32).wf = false := by decide
theorem test_wf_refuses_wide_taglen_decall : (Instr.mgmdecall .slot1 .slot0 40).wf = false := by decide
theorem test_wf_accepts_largest_arg : (Instr.mgmfin 31).wf = true := by decide

/-! ### Decoding: `OPC` in bits 7:0, `KS` bit 8, `AK` bit 9, `FLG` bit 10, `ARG` bits 20:16 (R71 to R74) -/

theorem test_decode_kcreate : decode 0b000_10000_00000_0_0_0_00000001 = some (.kcreate .slot0 16) := by decide
theorem test_decode_kset : decode 0b000_00000_00000_1_0_0_00000010 = some (.kset .slot0 true) := by decide
theorem test_decode_ksetrnd : decode 0b000_00000_00000_0_0_1_00000011 = some (.ksetrnd .slot1 false) := by decide
theorem test_decode_ksetpwd : decode 0b000_00000_00000_1_0_1_00000100 = some (.ksetpwd .slot1 true) := by decide
theorem test_decode_kenc : decode 0x00000105 = some (.kenc .slot1) := by decide
theorem test_decode_kdec : decode 0x00000006 = some (.kdec .slot0) := by decide
theorem test_decode_kdestroy : decode 0x00000107 = some (.kdestroy .slot1) := by decide
theorem test_decode_ecbenc : decode 0x00000110 = some (.ecbenc .slot1) := by decide
theorem test_decode_ecbdec : decode 0x00000011 = some (.ecbdec .slot0) := by decide
theorem test_decode_ctr : decode 0b000_00000_00000_1_0_1_00010010 = some (.ctr .slot1 true) := by decide
theorem test_decode_acpkm : decode 0x00000013 = some (.acpkm .slot0 false) := by decide
theorem test_decode_omac : decode 0x00000114 = some (.omac .slot1) := by decide
theorem test_decode_mgmaclean : decode 0b000_00000_00000_0_1_0_00100000 = some (.mgmaclean .slot0 .slot1) := by decide
theorem test_decode_mgmaupd : decode 0x00000021 = some .mgmaupd := by decide
theorem test_decode_mgmeclean : decode 0x00000022 = some .mgmeclean := by decide
theorem test_decode_mgmenc : decode 0x00000023 = some .mgmenc := by decide
theorem test_decode_mgmdec : decode 0x00000024 = some .mgmdec := by decide
theorem test_decode_mgmfin : decode 0x00100025 = some (.mgmfin 16) := by decide
theorem test_decode_mgmencall : decode 0b000_01000_00000_0_1_0_00101000 = some (.mgmencall .slot0 .slot1 8) := by decide
theorem test_decode_mgmdecall : decode 0b000_10000_00000_0_0_1_00101001 = some (.mgmdecall .slot1 .slot0 16) := by
  decide

/-- V4.21 to V4.28. -/
theorem test_decode_illegal :
    decode 0x00000000 = none ∧ decode 0x00000008 = none ∧ decode 0x00000805 = none ∧ decode 0x00200025 = none ∧
    decode 0x00100021 = none ∧ decode 0x000000FF = none ∧ decode 0x00100125 = none ∧ decode 0x00000121 = none := by
  decide

/-- A row of the table is read as the word it is. -/
theorem test_table_word : decodeTableWord 32 0x00080228 = some (.mgmencall .slot0 .slot1 8) := by decide

/-- The five words of V4.1 to V4.8 that a `LOADKEY 0, 16` writes (R83). -/
theorem test_loadkey :
    loadKey .slot0 16 [1, 2] =
      [.wr 0x00 0x00100001, .wrb 0x11 0 [1, 2], .wr 0x04 2, .wr 0x00 0x00000002] := by decide

/-! ### The configuration functions of section 3 -/

/-- V3.11, V3.12, V3.14, V3.18 and V3.20, the last with its arguments exchanged. -/
theorem test_gfmul :
    gfmulDefault 0x1 0x00112233445566778899AABBCCDDEEFF = 0x00112233445566778899AABBCCDDEEFF ∧
    gfmulDefault 0x2 0x80000000000000000000000000000000 = 0x87 ∧
    gfmulDefault 0x80000000000000000000000000000000 0x80000000000000000000000000000000 =
      0xC0000000000000000000000000001067 ∧
    gfmulDefault 0x00112233445566778899AABBCCDDEEFF 0x8899AABBCCDDEEFF0011223344556677 =
      0x4478AA848EB260678DB1634D477BA9AE ∧
    gfmulDefault 0xFFFFFFFFFFFFFFFFFFFFFFFFFFFFFFFF 0x3 = 0x86 := by decide +kernel

/-- V3.22 and V3.24. -/
theorem test_incr :
    incrZDefault 0xFFFFFFFFFFFFFFFFFFFFFFFFFFFFFFFF = 0x0000000000000000FFFFFFFFFFFFFFFF ∧
    incrYDefault 0x0123456789ABCDEFFFFFFFFFFFFFFFFF = 0x0123456789ABCDEF0000000000000000 := by decide +kernel

/-! ### The states the vectors start from -/

/-- `k` bytes of a number, as the spec writes byte strings. -/
def buf (k v : Nat) : Memory := Memory.writeBytes [] 0 (bytesOf k v)

/-- The key whose bytes are those of a number. -/
def keyOf (v : Nat) : Key := Vector.ofFn fun i => (bytesOf 32 v).getD i.val 0

def k1 : Nat := 0x000102030405060708090A0B0C0D0E0F101112131415161718191A1B1C1D1E1F
def k2 : Nat := 0x8899AABBCCDDEEFF0011223344556677FEDCBA98765432100123456789ABCDEF

/-- A keyed slot. -/
def keyed (bs16 : Bool) (key : Nat) : Slot := { Slot.zeroized with st := .keyed, bs16 := bs16, key := keyOf key }

/-- A slot created with `bs = 16`. -/
def created : State := { State.reset with k0 := { Slot.zeroized with st := .created, bs16 := true } }

/-- Slot 0 is (K1, 16), slot 1 is (K2, 8): the state of sections 5 and 6. -/
def modes : State := { State.reset with k0 := keyed true k1, k1 := keyed false k2 }

/-- Slot 0 is (K1, 16), slot 1 is (K2, 16), the IV is IV12: the state of sections 7 and 8. -/
def mgm : State :=
  { State.reset with k0 := keyed true k1, k1 := keyed true k2, ivin := buf 12 0x112233445566778899AABBCC, ivlen := 12 }

/-- `A41` in `AIN`. -/
def withA41 (s : State) : State :=
  { s with
    alen := 41
    ain := buf 41 0x0202020202020202010101010101010104040404040404040303030303030303EA0505050505050505 }

def p67 : Nat :=
  0x1122334455667700FFEEDDCCBBAA998800112233445566778899AABBCCEEFF0A112233445566778899AABBCCEEFF0A002233445566778899AABBCCEEFF0A0011AABBCC

def c67 : Nat :=
  0x81E3012148FC73B03C86C35E4A35712790D0105659CF62C74BF1B4293D7117AD81E3012148FC73385AC2A55E1F60E2DFB2F276307BED8C2969D3D27C0E95E8C63A7AFE

def d37 : Nat := 0x1122334455667700FFEEDDCCBBAA998800112233445566778899AABBCCEEFF0A1122334455

/-- The first `n` bytes of a number in `DIN`. -/
def withData (n v : Nat) (s : State) : State := { s with dlen := BitVec.ofNat 32 n, din := buf n v }

/-- There is a next state and the part `f` of it is `v`. -/
def shows {α : Type} [DecidableEq α] (f : State → α) (o : Host.Outcome State Fault Refusal) (v : α) : Bool :=
  match o with
  | .next s => f s = v
  | _ => false

/-- The session after `MGMACLEAN 0, 1; MGMAUPD; MGMECLEAN` of section 7. -/
def encPhase : State :=
  { mgm with
    m :=
      { Session.cleared with
        phase := .enc
        sum := 0x76C715230D5837C4A35E585863F3C692
        y := 0x1019020BBD2CDC4DF365168631A350C7
        z := 0xBA11EF468655200DAA9F88B979AADFF7
        abits := 328
        aclosed := true
        ek := .slot0
        ak := .slot1 } }

/-- Why a step is refused. -/
def refusal (o : Host.Outcome State Fault Refusal) : Option Refusal :=
  match o with
  | .refused r => some r
  | _ => none

/-! ### Key-object commands, section 4 -/

/-- V4.4; V4.3; V4.8; V4.6. -/
theorem test_kcreate_kset :
    shows State.statusWord (execWith toy (.kcreate .slot0 16) State.reset) 0x00110000 ∧
    shows State.statusWord (execWith toy (.kcreate .slot0 12) State.reset) 0x00000001 ∧
    shows (fun t => (t.statusWord, t.k0.key)) (execWith toy (.kset .slot0 false) { created with klen := 32, keyin := buf 32 k1 })
      (0x00120000, keyOf k1) ∧
    shows State.statusWord (execWith toy (.kset .slot0 true) { created with klen := 32 }) 0x00110003 := by
  decide +kernel

/-- V4.17; V4.18; V4.19; V4.20. -/
theorem test_ksetrnd_ksetpwd :
    shows (fun t => (t.statusWord, t.k0.key)) (execWith toy (.ksetrnd .slot0 false) created)
      (0x00120000, Vector.replicate 32 0xA5) ∧
    shows State.statusWord (execWith toyExhausted (.ksetrnd .slot0 false) created) 0x0011000A ∧
    shows (fun t => (t.statusWord, t.k0.key))
        (execWith toy (.ksetpwd .slot0 false) (withData 2 0x0102 { created with alen := 3, ain := buf 3 0x616263 }))
      (0x00120000, keyOf 0x616365040666686A090B6B6D6F0E107072741315757779181A7A7C7E1D1F7F81) ∧
    shows State.statusWord (execWith toy (.ksetpwd .slot0 false) modes) 0x001A000B := by
  decide +kernel

/-- V4.9; V4.14; V4.10; V4.11: `DLEN = 15`; V4.15. -/
theorem test_kenc_kdec_kdestroy :
    shows (fun t => t.dout) (execWith toy (.kenc .slot0) (withData 16 0x00112233445566778899AABBCCDDEEFF modes))
      (buf 16 0x108033A156C675E39D0CBC2DDB4AF66F) ∧
    shows (fun t => t.dout) (execWith toy (.kenc .slot1) (withData 8 0x0123456789ABCDEF modes))
      (buf 8 0x4CC4C47D3DE62A9B) ∧
    shows (fun t => t.dout) (execWith toy (.kdec .slot0) (withData 16 0x108033A156C675E39D0CBC2DDB4AF66F modes))
      (buf 16 0x00112233445566778899AABBCCDDEEFF) ∧
    shows (fun t => (t.err, t.dout)) (execWith toy (.kdec .slot0) { modes with dlen := 15 })
      (.invalidLength, []) ∧
    shows (fun t => (t.k1, t.statusWord)) (execWith toy (.kdestroy .slot1) modes)
      (Slot.zeroized, 0x00120000) := by
  decide +kernel

/-! ### Cipher modes, sections 5 and 6 -/

/-- V5.3; V5.4: `DLEN = 24`; V5.2. -/
theorem test_ecbenc_ecbdec :
    shows (fun t => t.dout)
        (execWith toy (.ecbenc .slot1)
          (withData 32 0x1122334455667700FFEEDDCCBBAA998800112233445566778899AABBCCEEFF0A modes))
      (buf 32 0xCCFDB5669B88E21345670123CDEF89D34475221F0031665B88B9EEDB47CCBDA7) ∧
    shows (fun t => t.err) (execWith toy (.ecbenc .slot0) { modes with dlen := 24 }) .invalidLength ∧
    shows (fun t => t.dout)
        (execWith toy (.ecbdec .slot0)
          (withData 32 0x9908B829DF4EFE5727A624A521A022A7108033A156C675E39D0CBC2DDBFD76D7 modes))
      (buf 32 0x1122334455667700FFEEDDCCBBAA998800112233445566778899AABBCCEEFF0A) := by
  decide +kernel

/-- V5.8; V5.11b. -/
theorem test_ctr :
    shows (fun t => (t.dout, t.k0.ctr, t.k0.live))
        (execWith toy (.ctr .slot0 true)
          (withData 37 d37 { modes with ivin := buf 8 0x1234567890ABCEF0, ivlen := 8 }))
      (buf 37 0x9099E28BE4F5C6AFA7BF978FC7DFF7EF81AAF3FCF5C6D7D8D0C8E0F8B09B91959099E28BE4,
        0x1234567890ABCEF00000000000000003, false) ∧
    shows (fun t => (t.dout, t.k1.ctr, t.k1.live))
        (execWith toy (.ctr .slot1 true) (withData 37 d37 { modes with ivin := buf 4 0x12345678, ivlen := 4 }))
      (buf 37 0xC6717FBDBA22CD1328BD913554EE2C63D7426ECAAB11D3945FCAE64223AA4AF1C6717FBDBA,
        0x1234567800000005, false) := by
  decide +kernel

/-- V5.12, the data `D80`, and V3.27; V5.17. -/
theorem test_acpkm :
    shows (fun t => (t.dout, t.k0.wkey, t.k0.secpos))
        (execWith toy (.acpkm .slot0 true)
          (withData 80
            0x030A11181F262D343B424950575E656C737A81888F969DA4ABB2B9C0C7CED5DCE3EAF1F8FF060D141B222930373E454C535A61686F767D848B9299A0A7AEB5BCC3CAD1D8DFE6EDF4FB020910171E252C
            { modes with ivin := buf 8 0x1234567890ABCEF0, ivlen := 8, secsz := 32 })) (buf 80
          0x82B1C0D7AEB59C9B631303132B2B0B0BF2C150473E052C0BF3E3F383BBBBBB4346A323A028ADF56AE243E360A839E94EF613B330B8DD85FA72F353F038A919A664DF71F8148F7D96E2874BCE7ACB1408,
        keyOf 0x30B073F176F635BB35B676F573F430BFB033F370F679B53BB436F575F274B73E, 16) ∧
    shows (fun t => (t.dout, t.k1.wkey, t.k1.secpos))
        (execWith toy (.acpkm .slot1 true)
          (withData 40 0x030A11181F262D343B424950575E656C737A81888F969DA4ABB2B9C0C7CED5DCE3EAF1F8FF060D14
            { modes with ivin := buf 4 0x12345678, ivlen := 4, secsz := 16 }))
      (buf 40 0xD4595DE1F0629727EC1105A9B81AD0879AB7F6FC586233B0427FCEB4103A7BD0930ECD6719C6BE9E,
        keyOf 0x5B6416D8FBD8E2289CA4D698BB982268DCE49658785862A81C2756183807A2E9, 8) := by
  decide +kernel

/-- V6.4: a complete last block; V6.8: a padded last block, under the 8-byte cipher. -/
theorem test_omac :
    shows (fun t => t.tag)
        (execWith toy (.omac .slot0)
          (withData 32 0x030A11181F262D343B424950575E656C737A81888F969DA4ABB2B9C0C7CED5DC modes))
      (buf 16 0xC80198AC613E37E612FCA6913F61C93D) ∧
    shows (fun t => t.tag)
        (execWith toy (.omac .slot1) (withData 19 0x030A11181F262D343B424950575E656C737A81 modes))
      (buf 16 0x6E43FA66265D6F9C0000000000000000) := by
  decide +kernel

/-! ### MGM streaming, sections 7 and 9 -/

/-- Section 7, step 1; `TAG` held something; V9.3: slot 1 has `bs = 8`; Section 7, step 2; V9.15;
Section 7, step 3. -/
theorem test_mgmaclean_mgmaupd_mgmeclean :
    shows (fun t => (t.m.z, t.m.ak, t.tag, t.statusWord))
        (execWith toy (.mgmaclean .slot0 .slot1) { mgm with tag := buf 16 1 })
      (0xBA11EF468655200AAA9F88B979AADFF7, .slot1, [], 0x003A0100) ∧
    shows (fun t => t.err) (execWith toy (.mgmaclean .slot0 .slot1) modes) .invalidParameter ∧
    shows (fun t => (t.m.sum, t.m.z, t.m.abits, t.statusWord))
        (execWith toy .mgmaupd
          (withA41
            { mgm with
              m := { Session.cleared with phase := .auth, z := 0xBA11EF468655200AAA9F88B979AADFF7, ak := .slot1 } }))
      (0x76C715230D5837C4A35E585863F3C692, 0xBA11EF468655200DAA9F88B979AADFF7, 328, 0x003A0500) ∧
    shows (fun t => t.err)
        (execWith toy .mgmaupd
          { mgm with alen := 1, m := { Session.cleared with phase := .auth, abits := 0xFFFFFFFFFFFFFFF8 } })
      .dataTooLong ∧
    shows (fun t => (t.m.y, t.statusWord))
        (execWith toy .mgmeclean
          { mgm with
            m :=
              { Session.cleared with
                phase := .auth
                aclosed := true
                iv := Vector.ofFn fun i => (bytesOf 16 0x112233445566778899AABBCC00000000).getD i.val 0
                ivlen := 12 } }) (0x1019020BBD2CDC4DF365168631A350C7, 0x003A0600) := by
  decide +kernel

/-- Section 7, step 4; V9.2: phase CLEAN;
Section 7, the ciphertext through `MGMDEC`: the same session and the plaintext; Section 7, step 5; V9.11. -/
theorem test_mgmenc_mgmdec_mgmfin :
    shows (fun t => (t.dout, t.m.sum, t.m.y, t.m.z, t.statusWord))
        (execWith toy .mgmenc (withData 67 p67 encPhase))
      (buf 67 c67, 0x4BAE1EEBD401F92E56D3DEDA66760FDA, 0x1019020BBD2CDC4DF365168631A350CC,
        0xBA11EF4686552012AA9F88B979AADFF7, 0x003A0E00) ∧
    shows (fun t => t.err) (execWith toy .mgmenc mgm) .phaseViolation ∧
    shows (fun t => (t.dout, t.m.sum, t.m.y, t.m.z)) (execWith toy .mgmdec (withData 67 c67 encPhase))
      (buf 67 p67, 0x4BAE1EEBD401F92E56D3DEDA66760FDA, 0x1019020BBD2CDC4DF365168631A350CC,
        0xBA11EF4686552012AA9F88B979AADFF7) ∧
    shows (fun t => (t.m.sum, t.m.z, t.tag, t.m.phase))
        (execWith toy (.mgmfin 16)
          { mgm with
            m :=
              { encPhase.m with
                sum := 0x4BAE1EEBD401F92E56D3DEDA66760FDA
                z := 0xBA11EF4686552012AA9F88B979AADFF7
                pbits := 536
                eclosed := true } }) (0x85D8E539C0FC992C79401FB538CBBFE9, 0xBA11EF4686552012AA9F88B979AADFF7,
        buf 16 0x8D48C5341880734BCBA94A2460A2FEEF, .finalized) ∧
    shows (fun t => (t.err, t.m.phase)) (execWith toy (.mgmfin 3) encPhase) (.invalidParameter, .enc) := by
  decide +kernel

/-! ### MGM combined, section 8 -/

/-- V8.2; V8.10: one key in both roles. -/
theorem test_mgmencall :
    shows (fun t => (t.dout, t.tag, t.m.abits, t.m.pbits, t.statusWord))
        (execWith toy (.mgmencall .slot0 .slot1 8) (withData 67 p67 (withA41 mgm)))
      (buf 67 c67, buf 16 0x8D48C5341880734B0000000000000000, 328, 536, 0x003A0F00) ∧
    shows (fun t => t.tag) (execWith toy (.mgmencall .slot0 .slot0 16) (withData 67 p67 (withA41 mgm)))
      (buf 16 0xBEA776CC42299B716568822D346223E8) := by
  decide +kernel

/-- V8.3; V8.6: byte 15 of `TAGIN` differs. -/
theorem test_mgmdecall :
    shows (fun t => (t.dout, t.tag, t.statusWord))
        (execWith toy (.mgmdecall .slot0 .slot1 16)
          (withData 67 c67 (withA41 { mgm with tagin := buf 16 0x8D48C5341880734BCBA94A2460A2FEEF })))
      (buf 67 p67, buf 16 0x8D48C5341880734BCBA94A2460A2FEEF, 0x003A1F00) ∧
    shows (fun t => (t.dout, t.tag, t.m.abits, t.m.pbits, t.statusWord))
        (execWith toy (.mgmdecall .slot0 .slot1 16)
          (withData 67 c67 (withA41 { mgm with tagin := buf 16 0x8D48C5341880734BCBA94A2460A2FEEE })))
      ([], [], 328, 536, 0x003A0F07) := by
  decide +kernel

/-! ### The step -/

/-- The word placed by `withFetchWord` runs as the first command after reset (V4.4);
V4.21: the illegal word is a command that fails; Transactions outside the interface are refused (R58, R65); `KEYIN` reads as zeros (R51). -/
theorem test_step :
    shows (fun t => (t.statusWord, t.pending)) (step (State.reset.withFetchWord 32 0x00100001))
      (0x00110000, []) ∧
    shows State.statusWord (step (State.reset.withFetchWord 32 0x00000000)) 0x00000001 ∧
    refusal (step { State.reset with pending := [.wr 0x02 0x100000000] }) = some (.valueTooWide 2) ∧
    refusal (step { State.reset with pending := [.rd 0x07] }) = some (.noSuchRegister 7) ∧
    refusal (step { State.reset with pending := [.rdb 0x10 15 2] }) = some .outsideBuffer ∧
    shows (fun t => t.reply)
        (step { State.reset with keyin := buf 32 k1, pending := [.rdb 0x11 1 2] }) (some (.bytes [0, 0])) := by
  decide +kernel

end Sys2Proof.Tests
end

