-- ==== Sys2Proof/Tests/Witness.lean ====
section
/-! SUPPORT. For every statement of Certificates/Slice0/Obligations.lean that has hypotheses, a concrete state and
operands that meet them, for each of its clauses; where a clause has a range, at a boundary of it. -/

namespace Sys2Proof.Tests

open Sys2Proof Sys2Proof.Machine

/-- `BUF_BYTES` is at least 64 (R8). -/
theorem fits {n : Nat} (h : n ≤ 64) : n ≤ Config.machine.bufBytes := by unfold Config.bufBytes; omega

/-- `BUF_BYTES` and the number after it can stand in a length register. -/
theorem limit_toNat :
    (BitVec.ofNat 32 Config.machine.bufBytes).toNat = Config.machine.bufBytes ∧
    (BitVec.ofNat 32 (Config.machine.bufBytes + 1)).toNat = Config.machine.bufBytes + 1 := by
  have := Config.machine.bufUnits.isLt
  simp only [BitVec.toNat_ofNat]
  constructor <;> apply Nat.mod_eq_of_lt <;> unfold Config.bufBytes <;> omega

/-- A length register at `BUF_BYTES`, and one past it. -/
def full : Word := BitVec.ofNat 32 Config.machine.bufBytes
def past : Word := BitVec.ofNat 32 (Config.machine.bufBytes + 1)

theorem full_le : full.toNat ≤ Config.machine.bufBytes := limit_toNat.1.le
theorem lt_past : Config.machine.bufBytes < past.toNat := by unfold past; have := limit_toNat.2; omega
theorem full_blocks : full.toNat % 8 = 0 ∧ full.toNat % 16 = 0 := by
  unfold full; rw [limit_toNat.1]; unfold Config.bufBytes; omega

/-- One transaction waits. -/
def waiting (t : Transaction) : State := { State.reset with pending := [t] }

/-- A session in phase AUTH over `mgm`. -/
def authPhase : State := { mgm with m := { Session.cleared with phase := .auth, ak := .slot1 } }

/-! ### Reset, invariant, encoding, step -/

theorem witness_ResetInputRestoresReset : (waiting .reset).pending = .reset :: [] := rfl

theorem reset_inv : State.reset.Inv Config.machine where
  slots k := by cases k <;> constructor <;> decide
  session := by constructor <;> decide
  canonical sp := by cases sp <;> rfl
  inside sp := by cases sp <;> rfl
  verdict h := by cases h
  err := by decide

/-- Reset with the host about to create a key. -/
theorem witness_StepKeepsInvariant :
    (waiting (.wr 0 0x00100001)).Inv Config.machine ∧
    ∃ t : State, step (waiting (.wr 0 0x00100001)) = .next t ∧ (t.slot .slot0).st = .created :=
  ⟨{ slots := reset_inv.slots
     session := reset_inv.session
     canonical := reset_inv.canonical
     inside := reset_inv.inside
     verdict := reset_inv.verdict
     err := reset_inv.err }, _, rfl, rfl⟩

theorem witness_DecodeOfEncode : (Instr.mgmencall .slot0 .slot1 31).wf = true ∧ (Instr.kcreate .slot1 0).wf = true := by
  decide

theorem witness_EncodeOfDecode : decode 0x001F0328 = some (.mgmencall .slot1 .slot1 31) := by decide

theorem witness_AssemblerWords : 31 < 32 ∧ 0 < 32 := by decide

theorem witness_StepRunsDecodedCommand :
    (waiting (.wr 0x00 ((0x00000107 : Word).setWidth 64))).pending = .wr 0x00 ((0x00000107 : Word).setWidth 64) :: [] ∧
    decode 0x00000107 = some (.kdestroy .slot1) ∧ (Instr.mgmfin 31).wf = true := by decide

theorem witness_IllegalWordFails :
    (waiting (.wr 0x00 ((0xFFFFFFFF : Word).setWidth 64))).pending = .wr 0x00 ((0xFFFFFFFF : Word).setWidth 64) :: [] ∧
    ∀ op : Opcode, 0xFFFFFFFF &&& op.tableMask ≠ op.tableMatch :=
  ⟨rfl, fun op => by cases op <;> decide⟩

theorem witness_ReadTransactions :
    ((0x09, Reply.dword State.reset.m.pbits) ∈
      [(0x00, Reply.word 0), (0x01, .word State.reset.statusWord), (0x02, .word State.reset.alen),
        (0x03, .word State.reset.dlen), (0x04, .word State.reset.klen), (0x05, .word State.reset.ivlen),
        (0x06, .word State.reset.secsz), (0x08, .dword State.reset.m.abits), (0x09, .dword State.reset.m.pbits)]) ∧
    (0x11, Space.keyin, 32) ∈ bufferTable Config.machine ∧ 1 ≤ 1 ∧ 31 + 1 ≤ 32 := by
  simp [bufferTable]

theorem witness_WriteTransactions :
    (0x16, Space.dout, Config.machine.bufBytes) ∈ bufferTable Config.machine ∧ (0x10, Space.ivin, 16) ∈ bufferTable Config.machine ∧
    1 ≤ [0xFF#8].length ∧ 15 + [0xFF#8].length ≤ 16 ∧ (State.reset.buf .ivin).wf = true := by
  simp [bufferTable]; rfl

/-- Both sides of the equivalence occur: a byte past the end, and the last byte. -/
theorem witness_RefusedTransactions :
    (waiting (.rdb 0x10 16 1)).pending = .rdb 0x10 16 1 :: [] ∧ step (waiting (.rdb 0x10 16 1)) = .refused .outsideBuffer ∧
    step (waiting (.rdb 0x10 15 1)) = .next { State.reset with reply := some (.bytes [0]) } := ⟨rfl, rfl, rfl⟩

theorem witness_StatusWordFields :
    ((State.reset.raise .kdfFailure).err, (11 : BitVec 8)) ∈
      [(ErrCode.ok, 0), (.invalidParameter, 1), (.invalidKeyLength, 2), (.scheduleFailure, 3),
        (.invalidIVLength, 4), (.phaseViolation, 5), (.dataTooLong, 6), (.authenticationFailed, 7),
        (.allocationFailure, 8), (.invalidLength, 9), (.randomSourceExhausted, 10), (.kdfFailure, 11)] ∧
    (encPhase.m.phase, (2 : BitVec 2)) ∈ [(Phase.clean, 0), (.auth, 1), (.enc, 2), (.finalized, 3)] ∧
    (modes.k0.st, (2 : BitVec 2)) ∈ [(SlotState.empty, 0), (.created, 1), (.keyed, 2)] := by decide

/-- Two states with different keys that look alike to the host. -/
theorem witness_HostSeesNoSecrets :
    SameToHost modes { modes with k0 := keyed true k2, keyin := buf 32 k1 } ∧
    modes ≠ { modes with k0 := keyed true k2, keyin := buf 32 k1 } ∧
    ∃ s', step { modes with pending := .rdb 0x11 31 1 :: [] } = .next s' :=
  ⟨{ alen := rfl, dlen := rfl, klen := rfl, ivlen := rfl, secsz := rfl, err := rfl, verdict := rfl, phase := rfl,
     aclosed := rfl, eclosed := rfl, abits := rfl, pbits := rfl, slotState := fun k => by cases k <;> rfl,
     slotBs16 := fun k => by cases k <;> rfl, buffers := fun sp h => by cases sp <;> first | rfl | exact absurd rfl h },
   by decide, _, rfl⟩

/-! ### Outcomes -/

theorem witness_FailedCommandChangesOnlyTheOutcome :
    ∃ t, exec (.mgmfin 3) encPhase = .next t ∧ t.err ≠ .ok ∧ t.err ≠ .authenticationFailed :=
  ⟨_, rfl, by decide, by decide⟩

/-- A session that a combined command can open, with no data. -/
theorem ready_mgm (taglen : Nat) (h4 : 4 ≤ taglen) (h16 : taglen ≤ 16) :
    PipelineReady Config.machine .slot0 .slot1 taglen mgm where
  ek_usable := by decide
  ak_usable := by decide
  taglen_ge := h4
  taglen_le := h16
  alen_le := fits (by decide)
  dlen_le := fits (by decide)
  ivlen_lt := by decide

/-- `mgm` with a received tag. -/
def verifying (tagin : Memory) : State := { mgm with tagin := tagin }

theorem authClean_with_tagin (s : State) (x : Memory) (c : Config) (ek ak : SlotId) :
    ({ s with tagin := x } : State).authClean c ek ak = { s.authClean c ek ak with tagin := x } := rfl
theorem authUpdate_with_tagin (s : State) (x : Memory) (c : Config) :
    ({ s with tagin := x } : State).authUpdate c = { s.authUpdate c with tagin := x } := rfl
theorem encClean_with_tagin (s : State) (x : Memory) (c : Config) :
    ({ s with tagin := x } : State).encClean c = { s.encClean c with tagin := x } := rfl
theorem crypt_with_tagin (s : State) (x : Memory) (c : Config) (d : Bool) :
    ({ s with tagin := x } : State).crypt c d = { s.crypt c d with tagin := x } := rfl
theorem authFinish_with_tagin (s : State) (x : Memory) (c : Config) (n : Nat) :
    ({ s with tagin := x } : State).authFinish c n = { s.authFinish c n with tagin := x } := rfl

/-- The tag that `MGMDECALL` recomputes does not depend on the tag received. -/
theorem verifying_tag (x : Memory) (c : Config) :
    ((verifying x).pipeline c .slot0 .slot1 4 true).tag = (mgm.pipeline c .slot0 .slot1 4 true).tag := by
  simp only [State.pipeline, verifying, authClean_with_tagin, authUpdate_with_tagin, encClean_with_tagin,
    crypt_with_tagin, authFinish_with_tagin]

/-- What `MGMDECALL` answers on it. -/
theorem mgmdecall_verifying (x : Memory) :
    ∃ t, exec (.mgmdecall .slot0 .slot1 4) (verifying x) = .next t ∧
      t.err = (if ((verifying x).pipeline Config.machine .slot0 .slot1 4 true).tagDiff 4 = 0 then .ok
        else .authenticationFailed) ∧
      (t.verdict = true ↔ t.err = .ok) := by
  have hr : firstFailing ((verifying x).pipelineChecks Config.machine .slot0 .slot1 4) = none :=
    pipelineChecks_none.2
      { ek_usable := ⟨rfl, rfl⟩
        ak_usable := ⟨rfl, rfl⟩
        taglen_ge := by decide
        taglen_le := by decide
        alen_le := fits (n := 0) (by decide)
        dlen_le := fits (n := 0) (by decide)
        ivlen_lt := show (12 : Word).toNat < 16 by decide }
  simp only [exec, execMgmdecall, mgmdecallWith, hr]
  generalize (verifying x).pipeline Config.machine .slot0 .slot1 4 true = p
  split
  · exact ⟨_, rfl, rfl, by simp [State.finishVerified]⟩
  · exact ⟨_, rfl, rfl, by simp [State.raise]⟩

/-- A verification succeeds and one fails, whatever the configuration. -/
theorem witness_VerdictOnlyAfterMatchingTag :
    (∃ s t, exec (.mgmdecall .slot0 .slot1 4) s = .next t ∧ t.err = .ok ∧ t.verdict = true) ∧
    ∃ s t, exec (.mgmdecall .slot0 .slot1 4) s = .next t ∧ t.err = .authenticationFailed := by
  obtain ⟨tag, htag⟩ : ∃ tag, (mgm.pipeline Config.machine .slot0 .slot1 4 true).tag = tag := ⟨_, rfl⟩
  constructor
  · obtain ⟨t, h1, h2, h3⟩ := mgmdecall_verifying tag
    have he : t.err = .ok := by
      rw [h2, if_pos]
      simp only [State.tagDiff, verifying_tag, State.pipeline_tagin, htag]
      simp [verifying, List.range_succ]
    exact ⟨_, t, h1, he, h3.2 he⟩
  · obtain ⟨x, hx⟩ : ∃ x : Memory, x.read 0 ≠ tag.read 0 := by
      by_cases h : tag.read 0 = 0
      · exact ⟨[(0, 1)], by rw [h]; decide⟩
      · exact ⟨[], fun he => h he.symm⟩
    obtain ⟨t, h1, h2, -⟩ := mgmdecall_verifying x
    refine ⟨_, t, h1, ?_⟩
    rw [h2, if_neg]
    simp only [State.tagDiff, verifying_tag, State.pipeline_tagin, htag]
    simp only [verifying, List.range_succ, List.range_zero, List.nil_append, List.foldl_append, List.foldl_cons,
      List.foldl_nil]
    intro h
    have := (BitVec.or_eq_zero_iff.1 (BitVec.or_eq_zero_iff.1 (BitVec.or_eq_zero_iff.1 h).1).1).1
    exact hx (BitVec.xor_eq_zero_iff.1 (BitVec.or_eq_zero_iff.1 this).2).symm

theorem witness_CommandsWriteOnlyTheirOutputs :
    ∃ t, exec (.kdestroy .slot0) modes = .next t ∧ Opcode.kdestroy ∉ [Opcode.omac, .mgmaclean] ∧ modes.dout.wf = true ∧
      modes.dlen.toNat ≤ 0 := ⟨_, rfl, by decide, rfl, by decide⟩

/-! ### Key objects -/

theorem witness_KcreateResult : (16 = 8 ∨ 16 = 16) ∧ ¬ (12 = 8 ∨ 12 = 16) ∧ ¬ (0 = 8 ∨ 0 = 16) := by decide

/-- A created slot with the key in `KEYIN`. -/
def keyReady : State := { created with klen := 32, keyin := buf 32 k1 }

theorem witness_KsetResult :
    ((∀ i : Fin 32, (keyOf k1)[i] = keyReady.keyin.read i.val) ∧ (keyReady.slot .slot0).st ≠ .empty ∧ keyReady.klen = 32 ∧
      toy.scheduleOk (keyReady.slot .slot0).bs16 (keyOf k1) true = true) ∧
    ((State.reset.slot .slot0).st = .empty ∧ ((created.slot .slot0).st ≠ .empty ∧ created.klen ≠ 32)) := by
  decide +kernel

theorem witness_KsetrndResult :
    (created.slot .slot0).st ≠ .empty ∧ toy.rng created.draws 32 = some (Vector.replicate 32 0xA5) ∧
    toy.scheduleOk (created.slot .slot0).bs16 (Vector.replicate 32 0xA5) true = true ∧
    (State.reset.slot .slot0).st = .empty := by decide +kernel

/-- A created slot with a password and a salt (V4.19). -/
def passwordReady : State := { created with alen := 3, ain := buf 3 0x616263, dlen := 2, din := buf 2 0x0102 }

theorem witness_KsetpwdResult :
    ((passwordReady.slot .slot0).st ≠ .empty ∧ passwordReady.alen.toNat ≤ toy.bufBytes ∧
      passwordReady.dlen.toNat ≤ toy.bufBytes ∧
      toy.kdf (passwordReady.ain.readBytes 0 passwordReady.alen.toNat)
          (passwordReady.din.readBytes 0 passwordReady.dlen.toNat) 32 =
        some (keyOf 0x616365040666686A090B6B6D6F0E107072741315757779181A7A7C7E1D1F7F81) ∧
      toy.scheduleOk (passwordReady.slot .slot0).bs16
        (keyOf 0x616365040666686A090B6B6D6F0E107072741315757779181A7A7C7E1D1F7F81) true = true) ∧
    ((passwordReady.slot .slot0).st ≠ .empty ∧ passwordReady.alen.toNat ≤ Config.machine.bufBytes ∧
      full.toNat ≤ Config.machine.bufBytes) ∧
    ((State.reset.slot .slot0).st = .empty ∧ Config.machine.bufBytes < past.toNat) :=
  ⟨by decide +kernel, ⟨by decide, fits (n := 3) (by decide), full_le⟩, by decide, lt_past⟩

theorem witness_KencResult :
    (modes.dout.wf = true ∧ (modes.slot .slot1).st = .keyed ∧ ({ modes with dlen := 8 } : State).dlen.toNat = (modes.slot .slot1).bs) ∧
    ¬ ((modes.slot .slot1).st = .keyed ∧ ({ modes with dlen := 9 } : State).dlen.toNat = (modes.slot .slot1).bs) ∧
    (State.reset.slot .slot1).st ≠ .keyed := by decide

theorem witness_KdecResult :
    (modes.dout.wf = true ∧ (modes.slot .slot0).st = .keyed ∧ ({ modes with dlen := 16 } : State).dlen.toNat = (modes.slot .slot0).bs) ∧
    ¬ ((modes.slot .slot0).st = .keyed ∧ ({ modes with dlen := 15 } : State).dlen.toNat = (modes.slot .slot0).bs) := by decide

theorem witness_KdecInvertsKenc :
    modes.dout.wf = true ∧ (modes.slot .slot0).st = .keyed ∧ ({ modes with dlen := 16 } : State).dlen.toNat = (modes.slot .slot0).bs := by
  decide

theorem witness_SlotLifeCycle :
    (∃ t, exec (.kcreate .slot0 8) State.reset = .next t ∧ t.err = .ok) ∧
    (∃ t, exec (.kcreate .slot0 9) State.reset = .next t ∧ t.err ≠ .ok ∧ t.err ≠ .authenticationFailed) ∧
    (∃ t, execWith toy (.ksetrnd .slot0 false) created = .next t ∧ t.err = .ok) ∧
    (Instr.mgmaupd).opcode ∉ [Opcode.kcreate, .kset, .ksetrnd, .ksetpwd, .kdestroy] :=
  ⟨⟨_, rfl, by decide⟩, ⟨_, rfl, by decide, by decide⟩, ⟨_, rfl, by decide +kernel⟩, by decide⟩

theorem witness_CommandsLeaveTheOtherSlot :
    (keyCommandOn .slot0 (.kdestroy .slot0) = true ∨ modeCommandOn .slot0 (.kdestroy .slot0) = true) ∧
    (∃ t, exec (.kdestroy .slot0) modes = .next t) ∧ modeCommandOn .slot1 (.omac .slot1) = true := ⟨by decide, ⟨_, rfl⟩, rfl⟩

/-! ### Cipher modes -/

/-- `modes` with operands. -/
def modesAt (dlen ivlen secsz : Word) : State := { modes with dlen := dlen, ivlen := ivlen, secsz := secsz }

/-- A chunk of `BUF_BYTES` bytes, the empty chunk, and what is refused: a byte too many, and half a block. -/
theorem witness_EcbencResult :
    (∀ n : Word, n = full ∨ n = 0 →
      (modesAt n 0 0).dout.wf = true ∧ ((modesAt n 0 0).slot .slot1).st = .keyed ∧
        (modesAt n 0 0).dlen.toNat ≤ Config.machine.bufBytes ∧
        (modesAt n 0 0).dlen.toNat % ((modesAt n 0 0).slot .slot1).bs = 0) ∧
    (∀ n : Word, n = past ∨ n = 24 →
      ¬ (((modesAt n 0 0).slot .slot0).st = .keyed ∧ (modesAt n 0 0).dlen.toNat ≤ Config.machine.bufBytes ∧
        (modesAt n 0 0).dlen.toNat % ((modesAt n 0 0).slot .slot0).bs = 0)) := by
  constructor
  · rintro n (rfl | rfl)
    · exact ⟨rfl, rfl, full_le, full_blocks.1⟩
    · exact ⟨rfl, rfl, fits (n := 0) (by decide), by decide⟩
  · rintro n (rfl | rfl)
    · exact fun h => absurd h.2.1 lt_past.not_ge
    · exact fun h => absurd h.2.2 (by decide)

theorem witness_EcbdecResult :
    ((modesAt full 0 0).dout.wf = true ∧ ((modesAt full 0 0).slot .slot0).st = .keyed ∧
      (modesAt full 0 0).dlen.toNat ≤ Config.machine.bufBytes ∧
      (modesAt full 0 0).dlen.toNat % ((modesAt full 0 0).slot .slot0).bs = 0) ∧
    (∀ n : Word, n = past ∨ n = 8 →
      ¬ (((modesAt n 0 0).slot .slot0).st = .keyed ∧ (modesAt n 0 0).dlen.toNat ≤ Config.machine.bufBytes ∧
        (modesAt n 0 0).dlen.toNat % ((modesAt n 0 0).slot .slot0).bs = 0)) := by
  refine ⟨⟨rfl, rfl, full_le, full_blocks.2⟩, ?_⟩
  rintro n (rfl | rfl)
  · exact fun h => absurd h.2.1 lt_past.not_ge
  · exact fun h => absurd h.2.2 (by decide)

theorem witness_EcbRoundTrip :
    (modesAt full 0 0).dout.wf = true ∧ ((modesAt full 0 0).slot .slot0).st = .keyed ∧
    (modesAt full 0 0).dlen.toNat ≤ Config.machine.bufBytes ∧
    (modesAt full 0 0).dlen.toNat % ((modesAt full 0 0).slot .slot0).bs = 0 := ⟨rfl, rfl, full_le, full_blocks.2⟩

/-- Slot 0 with an open stream of either kind, in the middle of a section of two blocks, and a chunk of data. -/
def streaming (kind : StreamKind) (dlen : Word) : State :=
  { modes with
    dlen := dlen
    k0 := { keyed true k1 with live := true, kind := kind, ctr := 7, wkey := keyOf k2, secsz := 32, secpos := 16 } }

theorem streaming_inv (kind : StreamKind) (dlen : Word) : ((streaming kind dlen).slot .slot0).Inv := by
  cases kind <;> constructor <;> simp only [streaming, State.slot] <;> decide +kernel

theorem modes_inv (k : SlotId) (dlen ivlen secsz : Word) : ((modesAt dlen ivlen secsz).slot k).Inv := by
  cases k <;> constructor <;> simp only [modesAt, State.slot] <;> decide +kernel

/-- An opening and a continuing command that run, and each of the errors. -/
theorem witness_CtrResult :
    ((modesAt full 4 0).dout.wf = true ∧ ((modesAt full 4 0).slot .slot1).Inv ∧
      ((modesAt full 4 0).slot .slot1).st = .keyed ∧ (modesAt full 4 0).dlen.toNat ≤ Config.machine.bufBytes ∧
      (modesAt full 4 0).ivlen.toNat = ((modesAt full 4 0).slot .slot1).bs / 2) ∧
    (((streaming .ctr full).slot .slot0).Inv ∧
      (((streaming .ctr full).slot .slot0).live = true ∧ ((streaming .ctr full).slot .slot0).kind = .ctr) ∧
      ((streaming .ctr full).slot .slot0).st = .keyed ∧ (streaming .ctr full).dlen.toNat ≤ Config.machine.bufBytes) ∧
    ¬ (((modesAt 0 4 0).slot .slot1).live = true ∧ ((modesAt 0 4 0).slot .slot1).kind = .ctr) ∧
    ¬ (modesAt past 4 0).dlen.toNat ≤ Config.machine.bufBytes ∧
    ¬ (modesAt 0 8 0).ivlen.toNat = ((modesAt 0 8 0).slot .slot1).bs / 2 :=
  ⟨⟨rfl, modes_inv _ _ _ _, rfl, full_le, by decide⟩, ⟨streaming_inv _ _, ⟨rfl, rfl⟩, rfl, full_le⟩, by decide,
    lt_past.not_ge, by decide⟩

theorem witness_CtrTwiceReturnsInput :
    (modesAt full 8 0).dout.wf = true ∧ ((modesAt full 8 0).slot .slot0).st = .keyed ∧
    (modesAt full 8 0).dlen.toNat ≤ Config.machine.bufBytes ∧
    (modesAt full 8 0).ivlen.toNat = ((modesAt full 8 0).slot .slot0).bs / 2 := ⟨rfl, rfl, full_le, rfl⟩

/-- `ACPKM` over 40 bytes, cut after two blocks. -/
theorem witness_StreamChunksJoin :
    (Instr.acpkm .slot0 = Instr.ctr .slot0 ∨ Instr.acpkm .slot0 = Instr.acpkm .slot0) ∧
    (modesAt 40 8 32).dout.wf = true ∧ (∃ t, exec (.acpkm .slot0 true) (modesAt 40 8 32) = .next t ∧ t.err = .ok) ∧
    (modesAt 40 8 32).dlen.toNat = 32 + 8 ∧ 32 % ((modesAt 40 8 32).slot .slot0).bs = 0 ∧
    ∀ i, i < 8 → Memory.read [] i = (modesAt 40 8 32).din.read (32 + i) := by
  refine ⟨.inr rfl, rfl, ?_, by decide, by decide, fun i _ => rfl⟩
  have h : (modesAt 40 8 32).dataTooBig Config.machine = false := dataTooBig_eq_false.2 (fits (n := 40) (by decide))
  exact ⟨_, by simp only [exec, execAcpkm, acpkmWith, State.command, h]; rfl, rfl⟩

/-- An opening and a continuing command that run, and a section size of 0 and of no whole number of blocks. -/
theorem witness_AcpkmResult :
    ((modesAt full 8 16).dout.wf = true ∧ ((modesAt full 8 16).slot .slot0).Inv ∧
      ((modesAt full 8 16).slot .slot0).st = .keyed ∧ (modesAt full 8 16).dlen.toNat ≤ Config.machine.bufBytes ∧
      ((modesAt full 8 16).secsz ≠ 0 ∧ (modesAt full 8 16).secsz.toNat % ((modesAt full 8 16).slot .slot0).bs = 0) ∧
      (modesAt full 8 16).ivlen.toNat = ((modesAt full 8 16).slot .slot0).bs / 2) ∧
    (((streaming .acpkm full).slot .slot0).Inv ∧
      (((streaming .acpkm full).slot .slot0).live = true ∧ ((streaming .acpkm full).slot .slot0).kind = .acpkm) ∧
      ((streaming .acpkm full).slot .slot0).st = .keyed ∧ (streaming .acpkm full).dlen.toNat ≤ Config.machine.bufBytes) ∧
    ¬ (modesAt 0 8 0).secsz ≠ 0 ∧ ¬ (modesAt 0 8 24).secsz.toNat % ((modesAt 0 8 24).slot .slot0).bs = 0 :=
  ⟨⟨rfl, modes_inv _ _ _ _, rfl, full_le, ⟨fun h => absurd h (show (16 : Word) ≠ 0 by decide), rfl⟩, rfl⟩,
    ⟨streaming_inv _ _, ⟨rfl, rfl⟩, rfl, full_le⟩, by decide, by decide⟩

theorem witness_AcpkmFirstSectionEqualsCtr :
    (modesAt full 4 8).dout.wf = true ∧ ((modesAt full 4 8).slot .slot1).st = .keyed ∧
    (modesAt full 4 8).dlen.toNat ≤ Config.machine.bufBytes ∧
    (modesAt full 4 8).ivlen.toNat = ((modesAt full 4 8).slot .slot1).bs / 2 ∧ (modesAt full 4 8).secsz ≠ 0 ∧
    (modesAt full 4 8).secsz.toNat % ((modesAt full 4 8).slot .slot1).bs = 0 :=
  ⟨rfl, rfl, full_le, rfl, fun h => absurd h (show (8 : Word) ≠ 0 by decide), rfl⟩

/-- A message of `BUF_BYTES` bytes, the empty message, and what is refused. -/
theorem witness_OmacResult :
    (∀ n : Word, n = full ∨ n = 0 →
      (modesAt n 0 0).tag.wf = true ∧ ((modesAt n 0 0).slot .slot1).st = .keyed ∧
        (modesAt n 0 0).dlen.toNat ≤ Config.machine.bufBytes) ∧
    (State.reset.slot .slot1).st ≠ .keyed ∧ ¬ (modesAt past 0 0).dlen.toNat ≤ Config.machine.bufBytes := by
  refine ⟨?_, by decide, lt_past.not_ge⟩
  rintro n (rfl | rfl)
  · exact ⟨rfl, rfl, full_le⟩
  · exact ⟨rfl, rfl, fits (n := 0) (by decide)⟩

theorem witness_KeyAndModeCommandsIgnoreTheSession :
    (∃ k, keyCommandOn k (.kcreate .slot1 16) = true ∨ modeCommandOn k (.kcreate .slot1 16) = true) ∧
    (∃ k, keyCommandOn k (.omac .slot0) = true ∨ modeCommandOn k (.omac .slot0) = true) ∧
    ∃ t, exec (.kcreate .slot1 16) encPhase = .next t :=
  ⟨⟨.slot1, by decide⟩, ⟨.slot0, by decide⟩, _, rfl⟩

theorem witness_OtherCommandsLeaveSlotsAlone :
    (Instr.mgmfin 3).opcode ∉ [Opcode.kcreate, .kset, .ksetrnd, .ksetpwd, .kdestroy, .ctr, .acpkm] ∧
    ∃ t, exec (.mgmfin 3) encPhase = .next t := ⟨by decide, _, rfl⟩

/-! ### MGM -/

/-- The longest IV, and one byte more; a slot of the 8-byte cipher. -/
theorem witness_MgmacleanResult :
    (({ mgm with ivlen := 15 } : State).tag.wf = true ∧ UsableInMgm { mgm with ivlen := 15 } .slot0 ∧
      UsableInMgm { mgm with ivlen := 15 } .slot1 ∧ ({ mgm with ivlen := 15 } : State).ivlen.toNat < 16) ∧
    ¬ ({ mgm with ivlen := 16 } : State).ivlen.toNat < 16 ∧ ¬ UsableInMgm modes .slot1 := by decide

/-- A session in phase AUTH with a count and a chunk length. -/
def counted (n : DWord) (alen : Word) : State := { authPhase with alen := alen, m := { authPhase.m with abits := n } }

/-- A chunk of `BUF_BYTES` bytes; the last byte that can be counted, and the byte after it. -/
theorem witness_MgmaupdResult :
    (((counted 0 full).m.phase = .auth ∧ (counted 0 full).m.aclosed = false) ∧
      (counted 0 full).alen.toNat ≤ Config.machine.bufBytes ∧ UsableInMgm (counted 0 full) (counted 0 full).m.ak ∧
      (counted 0 full).m.abits.toNat + 8 * (counted 0 full).alen.toNat ≤ 2 ^ 64 - 1) ∧
    ((counted 0xFFFFFFFFFFFFFFF0 1).alen.toNat ≤ Config.machine.bufBytes ∧
      (counted 0xFFFFFFFFFFFFFFF0 1).m.abits.toNat + 8 * (counted 0xFFFFFFFFFFFFFFF0 1).alen.toNat ≤ 2 ^ 64 - 1) ∧
    ¬ (counted 0xFFFFFFFFFFFFFFF8 1).m.abits.toNat + 8 * (counted 0xFFFFFFFFFFFFFFF8 1).alen.toNat ≤ 2 ^ 64 - 1 ∧
    encPhase.m.phase ≠ .auth ∧ ¬ (counted 0 past).alen.toNat ≤ Config.machine.bufBytes := by
  refine ⟨⟨⟨rfl, rfl⟩, full_le, ⟨rfl, rfl⟩, ?_⟩, ⟨fits (n := 1) (by decide), by decide⟩, by decide, by decide,
    lt_past.not_ge⟩
  have : full.toNat < 2 ^ 32 := full.isLt
  have : (counted 0 full).m.abits.toNat + 8 * (counted 0 full).alen.toNat = 0 + 8 * full.toNat := rfl
  omega

theorem witness_MgmecleanResult :
    (authPhase.m.phase = .auth ∧ UsableInMgm authPhase authPhase.m.ek) ∧
    ¬ (mgm.m.phase = .auth ∧ UsableInMgm mgm mgm.m.ek) := by decide

/-- A session in phase ENC with a count and a chunk length. -/
def encrypting (n : DWord) (dlen : Word) : State := { encPhase with dlen := dlen, m := { encPhase.m with pbits := n } }

/-- A chunk of `BUF_BYTES` bytes; the byte after the last that can be counted. -/
theorem witness_MgmencResult :
    ((encrypting 0 full).dout.wf = true ∧ ((encrypting 0 full).m.phase = .enc ∧ (encrypting 0 full).m.eclosed = false) ∧
      (encrypting 0 full).dlen.toNat ≤ Config.machine.bufBytes ∧
      (UsableInMgm (encrypting 0 full) (encrypting 0 full).m.ek ∧ UsableInMgm (encrypting 0 full) (encrypting 0 full).m.ak) ∧
      (encrypting 0 full).m.pbits.toNat + 8 * (encrypting 0 full).dlen.toNat ≤ 2 ^ 64 - 1) ∧
    ¬ authPhase.m.phase = .enc ∧
    ¬ (encrypting 0xFFFFFFFFFFFFFFF8 1).m.pbits.toNat + 8 * (encrypting 0xFFFFFFFFFFFFFFF8 1).dlen.toNat ≤ 2 ^ 64 - 1 := by
  refine ⟨⟨rfl, ⟨rfl, rfl⟩, full_le, ⟨⟨rfl, rfl⟩, rfl, rfl⟩, ?_⟩, by decide, by decide⟩
  have : full.toNat < 2 ^ 32 := full.isLt
  have : (encrypting 0 full).m.pbits.toNat + 8 * (encrypting 0 full).dlen.toNat = 0 + 8 * full.toNat := rfl
  omega

theorem witness_MgmdecResult :
    (encPhase.dout.wf = true ∧ encPhase.m.phase = .enc ∧ encPhase.m.eclosed = false ∧
      encPhase.dlen.toNat ≤ Config.machine.bufBytes ∧
      (UsableInMgm encPhase encPhase.m.ek ∧ UsableInMgm encPhase encPhase.m.ak) ∧
      encPhase.m.pbits.toNat + 8 * encPhase.dlen.toNat ≤ 2 ^ 64 - 1) ∧
    ¬ (mgm.m.phase = .enc ∧ mgm.m.eclosed = false) :=
  ⟨⟨rfl, rfl, rfl, fits (by decide), by decide, by decide⟩, by decide⟩

theorem witness_MgmfinResult :
    (encPhase.tag.wf = true ∧ (encPhase.m.phase = .auth ∨ encPhase.m.phase = .enc) ∧ 4 ≤ 4 ∧ 16 ≤ 16 ∧
      UsableInMgm encPhase encPhase.m.ak) ∧
    (authPhase.m.phase = .auth ∧ UsableInMgm authPhase authPhase.m.ak) ∧
    ¬ 4 ≤ 3 ∧ ¬ 17 ≤ 16 ∧ ¬ (mgm.m.phase = .auth ∨ mgm.m.phase = .enc) := by decide

/-- 40 bytes of associated data, cut after two blocks. -/
theorem witness_AssociatedDataChunksJoin :
    (∃ t, exec .mgmaupd { authPhase with alen := 40 } = .next t ∧ t.err = .ok) ∧
    ({ authPhase with alen := 40 } : State).alen.toNat = 32 + 8 ∧ 32 % 16 = 0 ∧
    ∀ i, i < 8 → Memory.read [] i = authPhase.ain.read (32 + i) := by
  refine ⟨?_, by decide, by decide, fun i _ => rfl⟩
  have h : ({ authPhase with alen := 40 } : State).adTooBig Config.machine = false :=
    adTooBig_eq_false.2 (fits (n := 40) (by decide))
  exact ⟨_, by simp only [exec, execMgmaupd, mgmaupdWith, State.command, h]; rfl, rfl⟩

/-- Both directions, 40 bytes of data cut after two blocks. -/
theorem witness_DataChunksJoin :
    encPhase.dout.wf = true ∧
    (∃ t, exec .mgmenc { encPhase with dlen := 40 } = .next t ∧ t.err = .ok) ∧
    (∃ t, exec .mgmdec { encPhase with dlen := 40 } = .next t ∧ t.err = .ok) ∧
    ({ encPhase with dlen := 40 } : State).dlen.toNat = 32 + 8 ∧ 32 % 16 = 0 ∧
    ∀ j, j < 8 → Memory.read [] j = encPhase.din.read (32 + j) := by
  have h : ({ encPhase with dlen := 40 } : State).dataTooBig Config.machine = false :=
    dataTooBig_eq_false.2 (fits (n := 40) (by decide))
  exact ⟨rfl, ⟨_, by simp only [exec, execMgmenc, mgmencWith, State.command, State.cryptChecks, h]; rfl, rfl⟩,
    ⟨_, by simp only [exec, execMgmdec, mgmdecWith, State.command, State.cryptChecks, h]; rfl, rfl⟩, by decide,
    by decide, fun j _ => rfl⟩

theorem witness_MgmdecUndoesMgmenc :
    encPhase.dout.wf = true ∧ ∃ t, exec .mgmenc { encPhase with dlen := 40 } = .next t ∧ t.err = .ok :=
  ⟨rfl, witness_DataChunksJoin.2.1⟩

/-- A command accepted and one refused by the phase. -/
theorem witness_PhaseTable :
    (∀ k f, Instr.mgmaupd ≠ .ctr k f ∧ Instr.mgmaupd ≠ .acpkm k f) ∧
    (∃ t, exec .mgmaupd encPhase = .next t ∧ t.err = .phaseViolation) ∧
    ∃ t, exec .mgmeclean authPhase = .next t ∧ t.err = .ok :=
  ⟨fun _ _ => ⟨nofun, nofun⟩, ⟨_, rfl, by decide⟩, _, rfl, rfl⟩

theorem witness_CountersCountTrueLengths :
    ∃ t, exec .mgmaupd { authPhase with alen := 40 } = .next t ∧ t.err = .ok := witness_AssociatedDataChunksJoin.1

/-- The pipeline is ready at both ends of the tag length, with `BUF_BYTES` bytes of both kinds, and not past them. -/
theorem witness_MgmencallResult :
    mgm.dout.wf = true ∧ mgm.tag.wf = true ∧
    PipelineReady Config.machine .slot0 .slot1 4 { mgm with alen := full, dlen := full, ivlen := 15 } ∧
    PipelineReady Config.machine .slot0 .slot1 16 mgm ∧
    ¬ PipelineReady Config.machine .slot0 .slot1 16 { mgm with ivlen := 16 } ∧
    ¬ PipelineReady Config.machine .slot0 .slot1 3 mgm :=
  ⟨rfl, rfl, { ready_mgm 4 (by decide) (by decide) with alen_le := full_le, dlen_le := full_le, ivlen_lt := by decide },
    ready_mgm 16 (by decide) (by decide), fun h => absurd h.ivlen_lt (by decide), fun h => absurd h.taglen_ge (by decide)⟩

theorem witness_MgmencallEqualsStreaming : PipelineReady Config.machine .slot0 .slot1 16 mgm :=
  ready_mgm 16 (by decide) (by decide)

/-- The tag lengths at both ends, and past them. -/
theorem witness_MgmdecallResult :
    mgm.dout.wf = true ∧ mgm.tag.wf = true ∧ PipelineReady Config.machine .slot0 .slot1 4 mgm ∧
    PipelineReady Config.machine .slot0 .slot1 16 mgm ∧ ¬ PipelineReady Config.machine .slot0 .slot1 17 mgm :=
  ⟨rfl, rfl, ready_mgm 4 (by decide) (by decide), ready_mgm 16 (by decide) (by decide),
    fun h => absurd h.taglen_le (by decide)⟩

theorem witness_CombinedRoundTrip :
    mgm.dout.wf = true ∧ mgm.tag.wf = true ∧
    PipelineReady Config.machine .slot0 .slot1 16 { mgm with alen := full, dlen := full, ivlen := 15 } :=
  ⟨rfl, rfl,
    { ready_mgm 16 (by decide) (by decide) with alen_le := full_le, dlen_le := full_le, ivlen_lt := by decide }⟩

/-- A configuration whose `GFMUL` has the law, and the empty message. -/
theorem witness_EmptyMessageTag :
    (∀ h : Block, ({ toy with gfmul := fun _ _ => 0 } : Config).gfmul h 0 = 0) ∧ mgm.tag.wf = true ∧
    PipelineReady { toy with gfmul := fun _ _ => 0 } .slot0 .slot1 16 mgm ∧ mgm.alen = 0 ∧ mgm.dlen = 0 :=
  ⟨fun _ => rfl, rfl,
    { ek_usable := by decide
      ak_usable := by decide
      taglen_ge := by decide
      taglen_le := by decide
      alen_le := by decide
      dlen_le := by decide
      ivlen_lt := by decide }, rfl, rfl⟩

end Sys2Proof.Tests
end

section
/-! The state after reset (R38), element by element. -/

namespace Sys2Proof.Machine

open Sys2Proof

/-! ### What reset leaves in each part of the state -/

theorem zeroKey_getElem (i : Fin 32) : zeroKey[i] = 0 :=
  Vector.getElem_replicate i.isLt

theorem Session.cleared_iv_getElem (i : Fin 16) : Session.cleared.iv[i] = 0 :=
  Vector.getElem_replicate i.isLt

@[simp] theorem State.reset_slot (k : SlotId) : State.reset.slot k = Slot.zeroized := by
  cases k with
  | slot0 => rfl
  | slot1 => rfl

@[simp] theorem State.reset_m : State.reset.m = Session.cleared := rfl

/-- No buffer lists a byte after reset. -/
@[simp] theorem State.reset_buf (sp : Space) : State.reset.buf sp = [] := by
  cases sp <;> rfl

/-- An empty listing reads as the reset value of a byte everywhere. -/
@[simp] theorem Memory.read_nil (a : Nat) : Memory.read [] a = 0 := rfl

/-- Every code of R23 that `STATUS` is assembled from is 0 after reset: OK, CLEAN, EMPTY and the cleared flags. -/
@[simp] theorem State.reset_statusWord : State.reset.statusWord = 0 := by decide

/-- The zeroized slot of R29, field by field and key byte by key byte. -/
theorem Slot.zeroized_fields :
    Slot.zeroized.st = .empty ∧ Slot.zeroized.bs16 = false ∧
    (∀ i : Fin 32, Slot.zeroized.key[i] = 0 ∧ Slot.zeroized.wkey[i] = 0) ∧
    Slot.zeroized.ctr = 0 ∧ Slot.zeroized.live = false ∧ Slot.zeroized.kind = .ctr ∧
    Slot.zeroized.secsz = 0 ∧ Slot.zeroized.secpos = 0 :=
  ⟨rfl, rfl, fun i => ⟨zeroKey_getElem i, zeroKey_getElem i⟩, rfl, rfl, rfl, rfl, rfl⟩

/-! ### The obligation -/

/-- Settles O1: each row of the table of R38 is a field of `State.reset`, `Slot.zeroized` or `Session.cleared`; the
arrays are read through the lemmas above. -/
theorem resetLeavesEveryElementZero : Obligations.ResetLeavesEveryElementZero := by
  unfold Obligations.ResetLeavesEveryElementZero
  have buffers : ∀ sp a, (State.reset.buf sp).read a = 0 := fun sp a => by
    rw [State.reset_buf, Memory.read_nil]
  refine ⟨rfl, rfl, rfl, rfl, rfl, rfl, rfl, rfl, State.reset_statusWord, rfl, rfl, fun k => ?slot,
    rfl, rfl, rfl, rfl, rfl, rfl, Session.cleared_iv_getElem, rfl, rfl, rfl, buffers⟩
  case slot =>
    rw [State.reset_slot]
    exact Slot.zeroized_fields

end Sys2Proof.Machine
end

section
/-! Refusals and reads at the host port (R51, R57 to R59, R65): which numbers name a register, when a request is refused,
and what the two read transactions return. -/

namespace Sys2Proof.Machine

open Sys2Proof

/-! ### Registers by number -/

theorem Reg.ofNumber_eq_none_iff {n : Nat} : Reg.ofNumber n = none ↔ n ∉ [0, 1, 2, 3, 4, 5, 6, 8, 9] := by
  constructor
  · intro h hn
    have named : ∀ m ∈ [0, 1, 2, 3, 4, 5, 6, 8, 9], Reg.ofNumber m ≠ none := by decide
    exact named n hn h
  · intro hn
    unfold Reg.ofNumber
    split <;> simp at hn ⊢

/-- Only `ABITS` and `PBITS` are wider than 32 bits (R52), and every value of a transaction fits them. -/
theorem Reg.two_pow_width_le_iff {n : Nat} {r : Reg} (h : Reg.ofNumber n = some r) (v : DWord) :
    2 ^ r.width ≤ v.toNat ↔ n ≠ 8 ∧ n ≠ 9 ∧ 2 ^ 32 ≤ v.toNat := by
  have hv : v.toNat < 2 ^ 64 := v.isLt
  unfold Reg.ofNumber at h
  split at h <;> cases h <;> simp only [Reg.width] <;> omega

/-- What `RD` returns, by the number of the register (R52, R59). -/
def registerReplies (s : State) : List (Nat × Reply) :=
  [(0x00, .word 0), (0x01, .word s.statusWord), (0x02, .word s.alen), (0x03, .word s.dlen), (0x04, .word s.klen),
   (0x05, .word s.ivlen), (0x06, .word s.secsz), (0x08, .dword s.m.abits), (0x09, .dword s.m.pbits)]

theorem of_mem_registerReplies {s : State} {n : Nat} {v : Reply} (h : (n, v) ∈ registerReplies s) :
    ∃ r, Reg.ofNumber n = some r ∧ s.readReg r = v := by
  have row : ∀ p ∈ registerReplies s, ∃ r, Reg.ofNumber p.1 = some r ∧ s.readReg r = p.2 := by
    simp [registerReplies, Reg.ofNumber, State.readReg]
  exact row _ h

/-! ### Requests that are refused -/

theorem writeRequest_error_iff {n : Nat} {v : DWord} :
    (∃ e, writeRequest n v = .error e) ↔
      n ∉ [0, 1, 2, 3, 4, 5, 6, 8, 9] ∨ (n ≠ 8 ∧ n ≠ 9 ∧ 2 ^ 32 ≤ v.toNat) := by
  rw [← Reg.ofNumber_eq_none_iff]
  cases hn : Reg.ofNumber n with
  | none => simp [writeRequest, hn]
  | some r =>
    rw [← Reg.two_pow_width_le_iff hn]
    by_cases hw : 2 ^ r.width ≤ v.toNat
    · simp [writeRequest, hn, hw]
    · have accepted : ∀ e, writeRequest n v ≠ .error e := by
        intro e
        simp only [writeRequest, hn, if_neg hw]
        split <;> nofun
      exact iff_of_false (not_exists.mpr accepted) (by simp [hw])

theorem request_rd_error_iff {c : Config} {n : Nat} :
    (∃ e, request c (.rd n) = .error e) ↔ n ∉ [0, 1, 2, 3, 4, 5, 6, 8, 9] := by
  rw [← Reg.ofNumber_eq_none_iff]
  cases hn : Reg.ofNumber n with
  | none => simp [request, hn]
  | some r => simp [request, hn]

theorem accessRefused_eq_some {size off k : Nat} (h : k = 0 ∨ size < off + k) :
    ∃ e, accessRefused size off k = some e := by
  by_cases hk : k = 0
  · exact ⟨.emptyAccess, by simp [accessRefused, hk]⟩
  · exact ⟨.outsideBuffer, by simp [accessRefused, hk, h.resolve_left hk]⟩

/-- A number that names no buffer has no row in the table, so the right side holds of it too. -/
theorem spaceRequest_error_iff {c : Config} {n off k : Nat} {q : Space → Request} :
    (∃ e, spaceRequest c n off k q = .error e) ↔
      ∀ sp size, (n, sp, size) ∈ bufferTable c → k = 0 ∨ size < off + k := by
  constructor
  · rintro ⟨e, he⟩ sp size hmem
    by_contra hin
    rw [spaceRequest_inside hmem (by omega) (by omega)] at he
    cases he
  · intro h
    cases hn : Space.ofNumber n with
    | none => exact ⟨.noSuchBuffer n, by simp only [spaceRequest, hn]⟩
    | some sp =>
      obtain ⟨e, he⟩ := accessRefused_eq_some (h sp _ (mem_bufferTable hn))
      exact ⟨e, by simp only [spaceRequest, hn, he]⟩

/-! ### Steps that are refused -/

theorem exec_next (i : Instr) (s : State) : ∃ t, exec i s = .next t := by
  rw [exec_eq_execWith]
  exact execWith_next _ i s

/-- No command word is refused: a legal one runs its command and an illegal one is a command that fails (R75). -/
theorem runWord_next (w : Word) (s : State) : ∃ t, runWord exec w s = .next t := by
  cases hd : decode w with
  | none => exact ⟨s.raise .invalidParameter, by simp only [runWord, hd]⟩
  | some i =>
    obtain ⟨t, ht⟩ := exec_next i s
    exact ⟨t, by simp only [runWord, hd, ht]⟩

/-- Only the request decides: what is resolved is served or runs a command, and neither is refused. -/
theorem step_refused_iff {s : State} {tr : Transaction} {rest : List Transaction} (h : s.pending = tr :: rest) :
    (∃ r, step s = .refused r) ↔ ∃ e, request Config.machine tr = .error e := by
  constructor
  · rintro ⟨r, hr⟩
    cases hq : request Config.machine tr with
    | error e => exact ⟨e, rfl⟩
    | ok q =>
      exfalso
      by_cases hc : ∃ w, q = .command w
      · obtain ⟨w, rfl⟩ := hc
        obtain ⟨t, ht⟩ := runWord_next w (s.accept rest)
        rw [step_of_command h hq, ht] at hr
        cases hr
      · rw [step_of_request h hq (not_exists.mp hc)] at hr
        cases hr
  · rintro ⟨e, he⟩
    exact ⟨e, step_of_error h he⟩

/-- Settles O14: by `step_refused_iff` the request decides, and it is refused as the lemma for its kind says. -/
theorem refusedTransactions : Obligations.RefusedTransactions := by
  unfold Obligations.RefusedTransactions
  intro s rest tr h
  rw [step_refused_iff h]
  cases tr with
  | wr n v => exact writeRequest_error_iff
  | rd n => exact request_rd_error_iff
  | wrb n off b => exact spaceRequest_error_iff
  | rdb n off k => exact spaceRequest_error_iff
  | reset => exact iff_of_false nofun id

/-! ### Steps that read -/

/-- Taking a transaction changes nothing a register read shows. -/
@[simp] theorem State.accept_readReg (s : State) (rest : List Transaction) (r : Reg) :
    (s.accept rest).readReg r = s.readReg r := by
  cases r <;> rfl

/-- Taking a transaction changes nothing a buffer read shows. -/
@[simp] theorem State.accept_readSpace (s : State) (rest : List Transaction) (sp : Space) (off k : Nat) :
    (s.accept rest).readSpace sp off k = s.readSpace sp off k := by
  cases sp <;> rfl

theorem step_rd {n : Nat} {r : Reg} (hn : Reg.ofNumber n = some r) (s : State) (rest : List Transaction) :
    step { s with pending := .rd n :: rest } = .next { s with pending := rest, reply := some (s.readReg r) } := by
  have hq : request Config.machine (.rd n) = .ok (.readReg r) := by simp only [request, hn]
  rw [step_of_request rfl hq nofun, ← State.accept_readReg s rest r]
  rfl

theorem step_rdb {n size off k : Nat} {sp : Space} (h : (n, sp, size) ∈ bufferTable Config.machine) (hk : 1 ≤ k)
    (hs : off + k ≤ size) (s : State) (rest : List Transaction) :
    step { s with pending := .rdb n off k :: rest } =
      .next { s with pending := rest, reply := some (s.readSpace sp off k) } := by
  rw [step_of_request rfl (request_rdb h hk hs) nofun, ← State.accept_readSpace s rest sp off k]
  rfl

theorem Memory.readBytes_eq_map_range (m : Memory) (off k : Nat) :
    m.readBytes off k = (List.range k).map fun i => m.read (off + i) :=
  List.ext_getElem (by simp) fun i _ _ => by rw [Memory.getElem_readBytes]; simp

/-- A buffer read byte by byte: `KEYIN` hides its bytes (R51). -/
theorem State.readSpace_eq_map (s : State) (sp : Space) (off k : Nat) :
    s.readSpace sp off k =
      .bytes ((List.range k).map fun i => if sp = .keyin then 0 else (s.buf sp).read (off + i)) := by
  by_cases hsp : sp = .keyin
  · simp [State.readSpace, hsp, zeros]
  · simp only [State.readSpace, if_neg hsp, Memory.readBytes_eq_map_range]

/-- Settles O12: `step_rd` for the registers and `step_rdb` for the buffers, whose replies are those of the two tables. -/
theorem readTransactions : Obligations.ReadTransactions := by
  unfold Obligations.ReadTransactions
  intro s rest
  constructor
  · intro n v hmem
    obtain ⟨r, hn, rfl⟩ := of_mem_registerReplies hmem
    exact step_rd hn s rest
  · intro n sp size off k hmem hk hs
    rw [step_rdb hmem hk hs, State.readSpace_eq_map]

end Sys2Proof.Machine
end

section
/-! The decoder and the opcode table (R70, R74, R75): a word decodes to a command of a row exactly when the row's `mask`
and `match` select it, and a word that no row selects is a command that fails. -/

namespace Sys2Proof

/-! ### The columns of the table -/

theorem Opcode.tableMask_eq (op : Opcode) : op.tableMask = 0xFFFFFFFF#32 ^^^ op.used := by
  cases op <;> rfl

theorem Opcode.tableMatch_eq (op : Opcode) : op.tableMatch = op.code.setWidth 32 := by
  cases op <;> rfl

/-- The constant of R70 that keeps `OPC`, bit by bit. -/
theorem opcBits_getLsbD (i : Nat) : (0x000000FF#32).getLsbD i = decide (i < 8) := by
  have ones : 0x000000FF#32 = (BitVec.allOnes 8).setWidth 32 := rfl
  rw [ones, BitVec.getLsbD_setWidth, BitVec.getLsbD_allOnes, Bool.and_eq_right_iff_imp]
  simp only [decide_eq_true_eq]
  omega

/-- No used field overlaps `OPC` (R71). -/
theorem Opcode.used_getLsbD_of_lt (op : Opcode) {i : Nat} (hi : i < 8) : op.used.getLsbD i = false := by
  have disjoint : op.used &&& 0x000000FF#32 = 0#32 := by cases op <;> rfl
  have bit := congrArg (·.getLsbD i) disjoint
  simpa only [BitVec.getLsbD_and, opcBits_getLsbD, hi, decide_true, Bool.and_true, BitVec.getLsbD_zero] using bit

/-- The all-zero word agrees with no row: no command has `OPC` 0 (R75). -/
theorem Opcode.zero_and_tableMask_ne (op : Opcode) : 0x00000000 &&& op.tableMask ≠ op.tableMatch := by
  cases op <;> decide

/-! ### The steps of the decoder -/

/-- Every assigned `OPC` names its own command: the 20 codes differ (R73). -/
theorem opcodeOf_eq_some_iff {b : BitVec 8} {op : Opcode} : opcodeOf b = some op ↔ b = op.code := by
  constructor
  · intro h
    have found := List.find?_some (p := fun o : Opcode => o.code == b) h
    exact (eq_of_beq found).symm
  · rintro rfl
    cases op <;> rfl

@[simp] theorem Opcode.opcode_build (op : Opcode) (f : Fields) : (op.build f).opcode = op := by
  cases op <;> rfl

/-- The decoder's three conditions (R70): `OPC` names the command, nothing outside `OPC` and the used fields is set, and
the operands are the word's fields. -/
theorem decode_eq_some_iff {w : Word} {i : Instr} :
    decode w = some i ↔
      w.extractLsb' 0 8 = i.opcode.code ∧ reservedClear i.opcode w = true ∧ i.opcode.build (fieldsOf w) = i := by
  constructor
  · intro h
    cases hop : opcodeOf (w.extractLsb' 0 8) with
    | none => simp [decode, hop] at h
    | some op =>
      obtain ⟨hres, rfl⟩ : reservedClear op w = true ∧ op.build (fieldsOf w) = i := by simpa [decode, hop] using h
      rw [Opcode.opcode_build]
      exact ⟨opcodeOf_eq_some_iff.mp hop, hres, rfl⟩
  · rintro ⟨hopc, hres, hbuild⟩
    simp [decode, opcodeOf_eq_some_iff.mpr hopc, hres, hbuild]

/-! ### What the table and the decoder check, bit by bit -/

theorem and_tableMask_getLsbD (w : Word) (op : Opcode) {i : Nat} (hi : i < 32) :
    (w &&& op.tableMask).getLsbD i = (w.getLsbD i && !op.used.getLsbD i) := by
  have ones : 0xFFFFFFFF#32 = BitVec.allOnes 32 := rfl
  rw [Opcode.tableMask_eq, ones, BitVec.allOnes_xor]
  simp only [BitVec.getLsbD_and, BitVec.getLsbD_not, hi, decide_true, Bool.true_and]

theorem Opcode.tableMatch_getLsbD (op : Opcode) {i : Nat} (hi : i < 32) :
    op.tableMatch.getLsbD i = op.code.getLsbD i := by
  simp only [Opcode.tableMatch_eq, BitVec.getLsbD_setWidth, hi, decide_true, Bool.true_and]

theorem extractOpc_eq_iff {w : Word} {c : BitVec 8} :
    w.extractLsb' 0 8 = c ↔ ∀ i < 8, w.getLsbD i = c.getLsbD i := by
  rw [BitVec.eq_of_getLsbD_eq_iff]
  refine forall₂_congr fun i hi => ?_
  simp only [BitVec.getLsbD_extractLsb', hi, decide_true, Bool.true_and, Nat.zero_add]

/-- The decoder's third step (R70): every bit from 8 on that the command does not use is 0. -/
theorem reservedClear_iff {op : Opcode} {w : Word} :
    reservedClear op w = true ↔ ∀ i < 32, 8 ≤ i → (w.getLsbD i && !op.used.getLsbD i) = false := by
  rw [reservedClear, beq_iff_eq, BitVec.eq_of_getLsbD_eq_iff]
  refine forall₂_congr fun i hi => ?_
  simp only [BitVec.getLsbD_and, BitVec.getLsbD_not, BitVec.getLsbD_or, BitVec.getLsbD_zero, opcBits_getLsbD, hi,
    decide_true, Bool.true_and]
  by_cases h8 : i < 8
  · simp [h8, Nat.not_le.mpr h8]
  · simp [h8, Nat.not_lt.mp h8]

/-! ### Decoding and the rows of the table -/

/-- `mask` and `match` say at once what the decoder checks in two steps. Below bit 8 no field is used, so `mask` keeps
`OPC` whole; from bit 8 on `match` is 0, so the bits `mask` keeps are the reserved ones. -/
theorem opcode_and_reservedClear_iff {w : Word} {op : Opcode} :
    w.extractLsb' 0 8 = op.code ∧ reservedClear op w = true ↔ w &&& op.tableMask = op.tableMatch := by
  have row : w &&& op.tableMask = op.tableMatch ↔
      ∀ i < 32, (w.getLsbD i && !op.used.getLsbD i) = op.code.getLsbD i := by
    rw [BitVec.eq_of_getLsbD_eq_iff]
    refine forall₂_congr fun i hi => ?_
    rw [and_tableMask_getLsbD w op hi, op.tableMatch_getLsbD hi]
  have below {i : Nat} (h8 : i < 8) : (w.getLsbD i && !op.used.getLsbD i) = w.getLsbD i := by
    rw [op.used_getLsbD_of_lt h8, Bool.not_false, Bool.and_true]
  have above {i : Nat} (h8 : 8 ≤ i) : op.code.getLsbD i = false := BitVec.getLsbD_of_ge _ _ h8
  rw [row, extractOpc_eq_iff, reservedClear_iff]
  constructor
  · rintro ⟨hopc, hres⟩ i hi
    by_cases h8 : i < 8
    · rw [below h8, hopc i h8]
    · rw [above (Nat.not_lt.mp h8), hres i hi (Nat.not_lt.mp h8)]
  · intro h
    refine ⟨fun i h8 => ?_, fun i hi h8 => ?_⟩
    · rw [← below h8, h i (by omega)]
    · rw [h i hi, above h8]

/-- A word decodes to a command of a row exactly when it selects the row (R74). -/
theorem decode_opcode_iff {w : Word} {op : Opcode} :
    (∃ i, decode w = some i ∧ i.opcode = op) ↔ w &&& op.tableMask = op.tableMatch := by
  rw [← opcode_and_reservedClear_iff]
  constructor
  · rintro ⟨i, hi, rfl⟩
    obtain ⟨hopc, hres, -⟩ := decode_eq_some_iff.mp hi
    exact ⟨hopc, hres⟩
  · rintro ⟨hopc, hres⟩
    refine ⟨op.build (fieldsOf w), decode_eq_some_iff.mpr ?_, op.opcode_build _⟩
    rw [Opcode.opcode_build]
    exact ⟨hopc, hres, rfl⟩

/-- The illegal words are those that select no row (R75). -/
theorem decode_eq_none_iff {w : Word} : decode w = none ↔ ∀ op : Opcode, w &&& op.tableMask ≠ op.tableMatch := by
  constructor
  · intro h op hop
    obtain ⟨i, hi, -⟩ := decode_opcode_iff.mpr hop
    rw [h] at hi
    cases hi
  · intro h
    cases hd : decode w with
    | none => rfl
    | some i => exact absurd (decode_opcode_iff.mp ⟨i, hd, rfl⟩) (h i.opcode)

end Sys2Proof

namespace Sys2Proof.Machine

open Sys2Proof

/-! ### The command step of an illegal word -/

theorem runWord_of_illegal {run : Instr → State → Host.Outcome State Fault Refusal} {w : Word} (h : decode w = none)
    (s : State) : runWord run w s = .next (s.raise .invalidParameter) := by
  simp only [runWord, h]

/-! ### The obligations -/

/-- Settles O7: the columns row by row, and `decode_opcode_iff` for the selection. -/
theorem decodeSelectsTableRow : Obligations.DecodeSelectsTableRow := by
  unfold Obligations.DecodeSelectsTableRow
  exact ⟨fun op => ⟨op.tableMask_eq, op.tableMatch_eq⟩, fun _ _ => decode_opcode_iff⟩

/-- Settles O11: a word that selects no row does not decode (`decode_eq_none_iff`), and the command step of such a word
only raises `InvalidParameter`. -/
theorem illegalWordFails : Obligations.IllegalWordFails := by
  unfold Obligations.IllegalWordFails
  refine ⟨decode_eq_none_iff.mpr Opcode.zero_and_tableMask_ne, fun s w rest hp hrow => ?_⟩
  have illegal : decode w = none := decode_eq_none_iff.mpr hrow
  rw [step_of_command hp (request_command _ w), runWord_of_illegal illegal]
  rfl

end Sys2Proof.Machine
end


section
/-! What each key-object command answers (R92 to R98, with `Install` of R91 and the zeroized slot of R29): the checks of
a command taken one at a time, the named ends of a command, and the results. -/

namespace Sys2Proof.Machine

open Sys2Proof

/-! ### The checks of a command, one at a time -/

theorem State.command_nil (s : State) (effect : State → State) : s.command [] effect = .next (effect s).finish := rfl

theorem State.command_cons_pass (s : State) {b : Bool} (h : b = false) (e : ErrCode) (cs : List (Bool × ErrCode))
    (effect : State → State) : s.command ((b, e) :: cs) effect = s.command cs effect := by
  subst h
  rfl

theorem State.command_cons_fail (s : State) {b : Bool} (h : b = true) (e : ErrCode) (cs : List (Bool × ErrCode))
    (effect : State → State) : s.command ((b, e) :: cs) effect = .next (s.raise e) := by
  subst h
  rfl

theorem notKeyed_eq_true {s : State} {k : SlotId} : s.notKeyed k = true ↔ (s.slot k).st ≠ .keyed := by
  simp [State.notKeyed]

theorem slotEmpty_eq_true {s : State} {k : SlotId} : s.slotEmpty k = true ↔ (s.slot k).st = .empty := by
  simp [State.slotEmpty]

/-! ### How a command on a slot ends -/

theorem State.finish_setSlot (s : State) (k : SlotId) (sl : Slot) :
    (s.setSlot k sl).finish = s.finish.setSlot k sl := by
  cases k with
  | slot0 => rfl
  | slot1 => rfl

@[simp] theorem State.finish_finish (s : State) : s.finish.finish = s.finish := rfl

/-- `Install` of R91 followed by the end of the command. -/
theorem State.finish_install (s : State) (k : SlotId) (key : Key) :
    (s.install k key).finish = installedState s k key := by
  rw [State.install_eq, State.finish_setSlot]
  rfl

/-- The end that `KSET` and `KSETPWD` share: the schedule is asked last, and its answer decides (R93, R95). -/
theorem State.command_install {s : State} {k : SlotId} {key : Key} {effect : State → State}
    (heffect : effect s = s.install k key) (accepted : Bool) :
    s.command [(!accepted, .scheduleFailure)] effect =
      .next (if accepted then installedState s k key else s.raise .scheduleFailure) := by
  cases accepted with
  | false => rfl
  | true => exact congrArg Host.Outcome.next (by rw [if_pos rfl, ← State.finish_install, heffect])

/-! ### `KENC` and `KDEC` -/

/-- A block value written to the front of a canonical buffer. -/
theorem Memory.holds_writeBytes_bytesOf {m : Memory} (hm : m.wf = true) (k : Nat) (v : Block) :
    (m.writeBytes 0 (bytesOf k v.toNat)).Holds fun a => if a < k then byteOf k v a else m.read a := by
  refine ⟨Memory.wf_writeBytes hm 0 _, fun a => ?_⟩
  rw [Memory.read_writeBytes hm]
  simp [byteOf]

section
variable {s : State} {k : SlotId} {f : Bool → Key → Block → Block}

/-- The checks pass: the block goes to the front of `DOUT`. -/
theorem State.oneBlock_of_ready (hdout : s.dout.wf = true) (hst : (s.slot k).st = .keyed)
    (hlen : s.dlen.toNat = (s.slot k).bs) :
    ∃ d : Memory,
      d.Holds (fun a =>
        if a < (s.slot k).bs then
          byteOf (s.slot k).bs (f (s.slot k).bs16 (s.slot k).key (blockOf (s.din.readBytes 0 (s.slot k).bs))) a
        else s.dout.read a) ∧
      s.oneBlock k f = .next { s with dout := d, err := .ok, verdict := false } := by
  refine ⟨_, Memory.holds_writeBytes_bytesOf hdout _ _, ?_⟩
  rw [State.oneBlock, State.command_cons_pass s (notKeyed_eq_false.mpr hst),
    State.command_cons_pass s (bne_eq_false_iff_eq.mpr hlen), State.command_nil]
  rfl

/-- The first failing check: the state of the slot, then the length. -/
theorem State.oneBlock_of_not_ready (h : ¬ ((s.slot k).st = .keyed ∧ s.dlen.toNat = (s.slot k).bs)) :
    s.oneBlock k f = .next (s.raise (if (s.slot k).st = .keyed then .invalidLength else .invalidParameter)) := by
  rw [State.oneBlock]
  by_cases hst : (s.slot k).st = .keyed
  · have hlen : s.dlen.toNat ≠ (s.slot k).bs := fun hlen => h ⟨hst, hlen⟩
    rw [State.command_cons_pass s (notKeyed_eq_false.mpr hst), State.command_cons_fail s (bne_iff_ne.mpr hlen),
      if_pos hst]
  · rw [State.command_cons_fail s (notKeyed_eq_true.mpr hst), if_neg hst]

end

/-- Settles O25: `KENC` is the single-block command of `Enc`. -/
theorem kencResult : Obligations.KencResult := by
  unfold Obligations.KencResult
  exact fun k s hdout => ⟨State.oneBlock_of_ready hdout, State.oneBlock_of_not_ready⟩

/-- Settles O26: `KDEC` is the single-block command of `Dec`. -/
theorem kdecResult : Obligations.KdecResult := by
  unfold Obligations.KdecResult
  exact fun k s hdout => ⟨State.oneBlock_of_ready hdout, State.oneBlock_of_not_ready⟩

/-! ### `KCREATE` and `KDESTROY` -/

/-- The check of `KCREATE` (R92). -/
theorem badBlockSize_eq_false {bs : Nat} : (!(bs == 8 || bs == 16)) = false ↔ bs = 8 ∨ bs = 16 := by
  simp only [Bool.not_eq_false', Bool.or_eq_true, beq_iff_eq]

theorem execKcreate_of_blockSize {bs : Nat} (h : bs = 8 ∨ bs = 16) (k : SlotId) (s : State) :
    execKcreate k bs s = .next (s.finish.setSlot k (createdSlot (bs == 16))) := by
  rw [execKcreate, State.command_cons_pass s (badBlockSize_eq_false.mpr h), State.command_nil, State.finish_setSlot]
  rfl

theorem execKcreate_of_not_blockSize {bs : Nat} (h : ¬ (bs = 8 ∨ bs = 16)) (k : SlotId) (s : State) :
    execKcreate k bs s = .next (s.raise .invalidParameter) := by
  rw [← badBlockSize_eq_false, Bool.not_eq_false] at h
  rw [execKcreate, State.command_cons_fail s h]

/-- Settles O21: the one check is the block size, and the Effect writes the created slot. -/
theorem kcreateResult : Obligations.KcreateResult := by
  unfold Obligations.KcreateResult
  exact fun k _ s => ⟨fun h => execKcreate_of_blockSize h k s, fun h => execKcreate_of_not_blockSize h k s⟩

theorem execKdestroy_eq (k : SlotId) (s : State) : execKdestroy k s = .next (s.finish.setSlot k Slot.zeroized) := by
  rw [execKdestroy, State.command_nil, State.finish_setSlot]

/-- Settles O28: zeroizing a slot that is zeroized changes nothing. -/
theorem kdestroyResult : Obligations.KdestroyResult := by
  unfold Obligations.KdestroyResult
  intro k s
  refine ⟨s.finish.setSlot k Slot.zeroized, execKdestroy_eq k s, ?again, rfl⟩
  case again =>
    calc execKdestroy k (s.finish.setSlot k Slot.zeroized)
      _ = .next ((s.finish.setSlot k Slot.zeroized).finish.setSlot k Slot.zeroized) := execKdestroy_eq k _
      _ = .next (s.finish.setSlot k Slot.zeroized) := by
        rw [State.finish_setSlot, State.finish_finish, State.setSlot_setSlot]

/-! ### `KSET` -/

/-- The key in `KEYIN`, from its bytes. -/
theorem State.keyBytesIn_eq {s : State} {key : Key} (h : ∀ i : Fin 32, key[i] = s.keyin.read i.val) :
    s.keyBytesIn = key := by
  refine Vector.ext fun i hi => ?_
  rw [State.keyBytesIn, Vector.getElem_ofFn]
  exact (h ⟨i, hi⟩).symm

/-- The check of `KLEN` at its width. -/
theorem klen_ne_keyBytes_iff {s : State} : s.klen.toNat ≠ keyBytes ↔ s.klen ≠ 32 := by
  simp [← BitVec.toNat_inj]

theorem ksetWith_of_ready {c : Config} {k : SlotId} {s : State} (hst : (s.slot k).st ≠ .empty) (hlen : s.klen = 32)
    (v : Bool) :
    ksetWith c k v s =
      .next (if c.scheduleOk (s.slot k).bs16 s.keyBytesIn v then installedState s k s.keyBytesIn
        else s.raise .scheduleFailure) := by
  have hklen : (s.klen.toNat != keyBytes) = false := by simp [hlen]
  rw [ksetWith, State.command_cons_pass s (slotEmpty_eq_false.mpr hst), State.command_cons_pass s hklen]
  exact State.command_install rfl _

theorem ksetWith_of_not_ready {k : SlotId} {s : State} (h : (s.slot k).st = .empty ∨ s.klen ≠ 32) (c : Config)
    (v : Bool) :
    ksetWith c k v s =
      .next (s.raise (if (s.slot k).st = .empty then .invalidParameter else .invalidKeyLength)) := by
  rw [ksetWith]
  by_cases hst : (s.slot k).st = .empty
  · rw [State.command_cons_fail s (slotEmpty_eq_true.mpr hst), if_pos hst]
  · have hklen : s.klen.toNat ≠ keyBytes := klen_ne_keyBytes_iff.mpr (h.resolve_left hst)
    rw [State.command_cons_pass s (slotEmpty_eq_false.mpr hst), State.command_cons_fail s (bne_iff_ne.mpr hklen),
      if_neg hst]

/-- Settles O22: `ksetWith_of_ready` when the first two checks pass and `ksetWith_of_not_ready` otherwise. -/
theorem ksetResult : Obligations.KsetResult := by
  unfold Obligations.KsetResult
  refine ⟨?accepted, ?ready, fun k v s h => ksetWith_of_not_ready h Config.machine v⟩
  case accepted =>
    intro c k v s key hkey hst hlen hok
    obtain rfl := State.keyBytesIn_eq hkey
    exact (ksetWith_of_ready hst hlen v).trans (by rw [if_pos hok])
  case ready =>
    intro k v s key hkey hst hlen
    obtain rfl := State.keyBytesIn_eq hkey
    exact ksetWith_of_ready hst hlen v

/-! ### `KSETPWD` -/

/-- The checks that `KSETPWD` makes before it derives the key (R95). -/
def State.ksetpwdChecks (s : State) (c : Config) (k : SlotId) : List (Bool × ErrCode) :=
  [(s.slotEmpty k, .invalidParameter), (s.adTooBig c || s.dataTooBig c, .invalidParameter)]

theorem ksetpwdChecks_none_iff {s : State} {c : Config} {k : SlotId} :
    firstFailing (s.ksetpwdChecks c k) = none ↔
      (s.slot k).st ≠ .empty ∧ s.alen.toNat ≤ c.bufBytes ∧ s.dlen.toNat ≤ c.bufBytes := by
  simp [State.ksetpwdChecks, firstFailing_eq_none_iff, slotEmpty_eq_false, adTooBig_eq_false, dataTooBig_eq_false]

/-- Both checks raise the same code. -/
theorem ksetpwdWith_of_not_ready {s : State} {c : Config} {k : SlotId}
    (h : ¬ ((s.slot k).st ≠ .empty ∧ s.alen.toNat ≤ c.bufBytes ∧ s.dlen.toNat ≤ c.bufBytes)) (v : Bool) :
    ksetpwdWith c k v s = .next (s.raise .invalidParameter) := by
  rw [← ksetpwdChecks_none_iff] at h
  obtain ⟨e, he⟩ := Option.ne_none_iff_exists'.mp h
  have code : e = .invalidParameter := by
    have row := firstFailing_some he
    simp only [State.ksetpwdChecks, List.mem_cons, Prod.mk.injEq, List.not_mem_nil, or_false] at row
    exact row.elim And.right And.right
  rw [State.ksetpwdChecks] at he
  simp only [ksetpwdWith, he, code]

section
variable {s : State} {c : Config} {k : SlotId}
  (ready : (s.slot k).st ≠ .empty ∧ s.alen.toNat ≤ c.bufBytes ∧ s.dlen.toNat ≤ c.bufBytes) (v : Bool)
include ready

theorem ksetpwdWith_of_kdf_none (hkdf : c.kdf s.adBytes s.dataBytes keyBytes = none) :
    ksetpwdWith c k v s = .next (s.raise .kdfFailure) := by
  have pass := ksetpwdChecks_none_iff.mpr ready
  rw [State.ksetpwdChecks] at pass
  simp only [ksetpwdWith, pass, hkdf]

theorem ksetpwdWith_of_kdf_some {d : Key} (hkdf : c.kdf s.adBytes s.dataBytes keyBytes = some d) :
    ksetpwdWith c k v s =
      .next (if c.scheduleOk (s.slot k).bs16 d v then installedState s k d else s.raise .scheduleFailure) := by
  have pass := ksetpwdChecks_none_iff.mpr ready
  rw [State.ksetpwdChecks] at pass
  simp only [ksetpwdWith, pass, hkdf]
  exact State.command_install rfl _

end

/-- Settles O24: the checks, then the answer of `KDF`, then the answer of the schedule. -/
theorem ksetpwdResult : Obligations.KsetpwdResult := by
  unfold Obligations.KsetpwdResult
  refine ⟨?accepted, ?ready, ?notReady⟩
  case accepted =>
    intro c k v s d hst halen hdlen hkdf hok
    exact (ksetpwdWith_of_kdf_some ⟨hst, halen, hdlen⟩ v hkdf).trans (by rw [if_pos hok])
  case ready =>
    intro k v s hst halen hdlen
    cases hkdf : Config.machine.kdf (s.ain.readBytes 0 s.alen.toNat) (s.din.readBytes 0 s.dlen.toNat) 32 with
    | none => exact ksetpwdWith_of_kdf_none ⟨hst, halen, hdlen⟩ v hkdf
    | some d => exact ksetpwdWith_of_kdf_some ⟨hst, halen, hdlen⟩ v hkdf
  case notReady =>
    intro k v s h
    refine ksetpwdWith_of_not_ready ?_ v
    rintro ⟨hst, halen, hdlen⟩
    rcases h with h | h | h
    · exact hst h
    · exact halen.not_gt h
    · exact hdlen.not_gt h

end Sys2Proof.Machine
end

section
/-! A key or mode command reads and writes nothing of the other slot (R99): what each named operation does in a state
whose other slot was replaced, then each command. That the other slot keeps its content follows, as replacing it by the
content it has changes nothing. -/

namespace Sys2Proof.Machine

open Sys2Proof

/-! ### Reads under a replaced slot -/

@[simp] theorem State.setSlot_dataBytes (s : State) (k : SlotId) (sl : Slot) :
    (s.setSlot k sl).dataBytes = s.dataBytes := by
  rw [State.dataBytes, State.setSlot_din, State.setSlot_dlen, State.dataBytes]

@[simp] theorem State.setSlot_adBytes (s : State) (k : SlotId) (sl : Slot) : (s.setSlot k sl).adBytes = s.adBytes := by
  rw [State.adBytes, State.setSlot_ain, State.setSlot_alen, State.adBytes]

@[simp] theorem State.setSlot_ivBytes (s : State) (k : SlotId) (sl : Slot) (n : Nat) :
    (s.setSlot k sl).ivBytes n = s.ivBytes n := by
  rw [State.ivBytes, State.setSlot_ivin, State.ivBytes]

@[simp] theorem State.setSlot_keyBytesIn (s : State) (k : SlotId) (sl : Slot) :
    (s.setSlot k sl).keyBytesIn = s.keyBytesIn := by
  simp only [State.keyBytesIn, State.setSlot_keyin]

@[simp] theorem State.setSlot_dataTooBig (s : State) (k : SlotId) (sl : Slot) (c : Config) :
    (s.setSlot k sl).dataTooBig c = s.dataTooBig c := by
  rw [State.dataTooBig, State.setSlot_dlen, State.dataTooBig]

@[simp] theorem State.setSlot_adTooBig (s : State) (k : SlotId) (sl : Slot) (c : Config) :
    (s.setSlot k sl).adTooBig c = s.adTooBig c := by
  rw [State.adTooBig, State.setSlot_alen, State.adTooBig]

@[simp] theorem State.setSlot_other_slotEmpty (s : State) (k : SlotId) (sl : Slot) :
    (s.setSlot k.other sl).slotEmpty k = s.slotEmpty k := by
  rw [State.slotEmpty, State.slot_setSlot_of_other, State.slotEmpty]

@[simp] theorem State.setSlot_other_notKeyed (s : State) (k : SlotId) (sl : Slot) :
    (s.setSlot k.other sl).notKeyed k = s.notKeyed k := by
  rw [State.notKeyed, State.slot_setSlot_of_other, State.notKeyed]

/-! ### Writes under a replaced slot -/

theorem State.raise_setSlot (s : State) (k : SlotId) (sl : Slot) (e : ErrCode) :
    (s.setSlot k sl).raise e = (s.raise e).setSlot k sl := by
  cases k with
  | slot0 => rfl
  | slot1 => rfl

theorem State.drawn_setSlot (s : State) (k : SlotId) (sl : Slot) : (s.setSlot k sl).drawn = s.drawn.setSlot k sl := by
  cases k with
  | slot0 => rfl
  | slot1 => rfl

theorem State.writeDout_setSlot (s : State) (k : SlotId) (sl : Slot) (b : List Byte) :
    (s.setSlot k sl).writeDout b = (s.writeDout b).setSlot k sl := by
  cases k with
  | slot0 => rfl
  | slot1 => rfl

theorem State.writeTag_setSlot (s : State) (k : SlotId) (sl : Slot) (b : List Byte) :
    (s.setSlot k sl).writeTag b = (s.writeTag b).setSlot k sl := by
  cases k with
  | slot0 => rfl
  | slot1 => rfl

theorem State.setSlot_setSlot_other (s : State) (k : SlotId) (a b : Slot) :
    (s.setSlot k.other b).setSlot k a = (s.setSlot k a).setSlot k.other b := by
  cases k with
  | slot0 => rfl
  | slot1 => rfl

theorem State.install_setSlot_other (s : State) (k : SlotId) (sl : Slot) (key : Key) :
    (s.setSlot k.other sl).install k key = (s.install k key).setSlot k.other sl := by
  rw [State.install_eq, State.slot_setSlot_of_other, State.setSlot_setSlot_other, State.install_eq]

theorem State.runStream_setSlot_other (s : State) (c : Config) (u : Slot → Key × Slot) (k : SlotId)
    (sl other : Slot) :
    (s.setSlot k.other other).runStream c u k sl = (s.runStream c u k sl).setSlot k.other other := by
  rw [State.runStream_eq, State.setSlot_dataBytes, State.setSlot_dlen, State.setSlot_setSlot_other,
    State.writeDout_setSlot, State.runStream_eq]

/-! ### Operations that ignore a slot -/

/-- An Effect reads and writes nothing of slot `j`: from a state with any other content there it leads to the same state
with that content there. -/
def EffectIgnoresSlot (j : SlotId) (effect : State → State) : Prop :=
  ∀ (s : State) (sl : Slot), effect (s.setSlot j sl) = (effect s).setSlot j sl

/-- A command reads and writes nothing of slot `j`, its checks included. -/
def IgnoresSlot (j : SlotId) (run : State → Host.Outcome State Fault Refusal) : Prop :=
  ∀ (s : State) (sl : Slot), run (s.setSlot j sl) = andThen (run s) fun t => .next (t.setSlot j sl)

theorem IgnoresSlot.next {j : SlotId} {run : State → Host.Outcome State Fault Refusal} (h : IgnoresSlot j run)
    {s t : State} (hs : run s = .next t) (sl : Slot) : run (s.setSlot j sl) = .next (t.setSlot j sl) := by
  rw [h s sl, hs]
  rfl

/-- What a command ignores it leaves unchanged. -/
theorem IgnoresSlot.slot_eq {j : SlotId} {run : State → Host.Outcome State Fault Refusal} (h : IgnoresSlot j run)
    {s t : State} (hs : run s = .next t) : t.slot j = s.slot j := by
  have replaced := h.next hs (s.slot j)
  rw [State.setSlot_slot, hs] at replaced
  have ht : t = t.setSlot j (s.slot j) := Host.Outcome.next.inj replaced
  rw [ht, State.slot_setSlot]

/-- A command whose checks come out the same and whose Effect ignores the slot. -/
theorem State.command_setSlot {j : SlotId} {effect : State → State} (h : EffectIgnoresSlot j effect) (s : State)
    (sl : Slot) (cs : List (Bool × ErrCode)) :
    (s.setSlot j sl).command cs effect = andThen (s.command cs effect) fun t => .next (t.setSlot j sl) := by
  cases hcs : firstFailing cs with
  | some e =>
    rw [State.command_of_fail effect hcs, State.command_of_fail effect hcs, State.raise_setSlot]
    rfl
  | none =>
    rw [State.command_of_pass effect hcs, State.command_of_pass effect hcs, h s sl, State.finish_setSlot]
    rfl

/-! ### Effects that ignore the other slot -/

theorem setSlot_ignores_other (k : SlotId) (a : Slot) : EffectIgnoresSlot k.other fun s => s.setSlot k a :=
  fun s sl => s.setSlot_setSlot_other k a sl

theorem install_ignores_other (k : SlotId) (key : Key) : EffectIgnoresSlot k.other fun s => s.install k key :=
  fun s sl => s.install_setSlot_other k sl key

/-! ### Key-object commands -/

theorem kcreate_ignores_other (k : SlotId) (bs : Nat) : IgnoresSlot k.other (execKcreate k bs) := fun s sl =>
  State.command_setSlot (setSlot_ignores_other k _) s sl _

theorem kdestroy_ignores_other (k : SlotId) : IgnoresSlot k.other (execKdestroy k) := fun s sl =>
  State.command_setSlot (setSlot_ignores_other k _) s sl _

theorem kset_ignores_other (c : Config) (k : SlotId) (v : Bool) : IgnoresSlot k.other (ksetWith c k v) := by
  have effect : EffectIgnoresSlot k.other fun s => s.install k s.keyBytesIn := fun s sl => by
    simp only [State.setSlot_keyBytesIn, State.install_setSlot_other]
  intro s sl
  simp only [ksetWith, State.setSlot_other_slotEmpty, State.setSlot_klen, State.slot_setSlot_of_other,
    State.setSlot_keyBytesIn]
  exact State.command_setSlot effect s sl _

theorem ksetrnd_ignores_other (c : Config) (k : SlotId) (v : Bool) : IgnoresSlot k.other (ksetrndWith c k v) := by
  intro s sl
  simp only [ksetrndWith, State.setSlot_other_slotEmpty, State.setSlot_draws, State.slot_setSlot_of_other,
    State.drawn_setSlot, State.raise_setSlot]
  cases hempty : s.slotEmpty k with
  | true => rfl
  | false =>
    cases hrng : c.rng s.draws keyBytes with
    | none => rfl
    | some r => exact State.command_setSlot (install_ignores_other k r) s.drawn sl _

theorem ksetpwd_ignores_other (c : Config) (k : SlotId) (v : Bool) : IgnoresSlot k.other (ksetpwdWith c k v) := by
  intro s sl
  simp only [ksetpwdWith, State.setSlot_other_slotEmpty, State.setSlot_adTooBig, State.setSlot_dataTooBig,
    State.setSlot_adBytes, State.setSlot_dataBytes, State.slot_setSlot_of_other, State.raise_setSlot]
  cases hcs : firstFailing
      [(s.slotEmpty k, .invalidParameter), (s.adTooBig c || s.dataTooBig c, .invalidParameter)] with
  | some e => rfl
  | none =>
    cases hkdf : c.kdf s.adBytes s.dataBytes keyBytes with
    | none => rfl
    | some d => exact State.command_setSlot (install_ignores_other k d) s sl _

theorem oneBlock_ignores_other (k : SlotId) (f : Bool → Key → Block → Block) :
    IgnoresSlot k.other fun s => s.oneBlock k f := by
  intro s sl
  simp only [State.oneBlock, State.setSlot_other_notKeyed, State.setSlot_dlen, State.slot_setSlot_of_other]
  refine State.command_setSlot (fun s sl => ?_) s sl _
  simp only [State.slot_setSlot_of_other, State.setSlot_din, State.writeDout_setSlot]

/-! ### Mode commands -/

theorem ecbCommand_ignores_other (c : Config) (k : SlotId) (f : Bool → Key → Block → Block) :
    IgnoresSlot k.other fun s => s.ecbCommand c k f := by
  intro s sl
  simp only [State.ecbCommand, State.setSlot_other_notKeyed, State.setSlot_dataTooBig, State.setSlot_dlen,
    State.slot_setSlot_of_other]
  refine State.command_setSlot (fun s sl => ?_) s sl _
  simp only [State.slot_setSlot_of_other, State.setSlot_dataBytes, State.writeDout_setSlot]

theorem ctr_ignores_other (c : Config) (k : SlotId) (first : Bool) : IgnoresSlot k.other (ctrWith c k first) := by
  intro s sl
  simp only [ctrWith, State.setSlot_other_notKeyed, State.setSlot_dataTooBig, State.setSlot_ivlen,
    State.slot_setSlot_of_other]
  refine State.command_setSlot (fun s sl => ?_) s sl _
  simp only [State.slot_setSlot_of_other, State.setSlot_ivBytes, State.runStream_setSlot_other]

theorem acpkm_ignores_other (c : Config) (k : SlotId) (first : Bool) : IgnoresSlot k.other (acpkmWith c k first) := by
  intro s sl
  simp only [acpkmWith, State.setSlot_other_notKeyed, State.setSlot_dataTooBig, State.setSlot_ivlen,
    State.setSlot_secsz, State.slot_setSlot_of_other]
  refine State.command_setSlot (fun s sl => ?_) s sl _
  simp only [State.slot_setSlot_of_other, State.setSlot_ivBytes, State.setSlot_secsz, State.runStream_setSlot_other]

theorem omac_ignores_other (c : Config) (k : SlotId) : IgnoresSlot k.other (omacWith c k) := by
  intro s sl
  simp only [omacWith, State.setSlot_other_notKeyed, State.setSlot_dataTooBig]
  refine State.command_setSlot (fun s sl => ?_) s sl _
  simp only [State.slot_setSlot_of_other, State.setSlot_dataBytes, State.writeTag_setSlot]

/-! ### The obligation -/

theorem keyCommand_ignores_other (c : Config) {k : SlotId} {i : Instr} (h : keyCommandOn k i = true) :
    IgnoresSlot k.other (execWith c i) := by
  cases i with
  | kcreate k' bs => obtain rfl := eq_of_beq h; exact kcreate_ignores_other k' bs
  | kset k' v => obtain rfl := eq_of_beq h; exact kset_ignores_other c k' v
  | ksetrnd k' v => obtain rfl := eq_of_beq h; exact ksetrnd_ignores_other c k' v
  | ksetpwd k' v => obtain rfl := eq_of_beq h; exact ksetpwd_ignores_other c k' v
  | kenc k' => obtain rfl := eq_of_beq h; exact oneBlock_ignores_other k' (blockEnc c)
  | kdec k' => obtain rfl := eq_of_beq h; exact oneBlock_ignores_other k' (blockDec c)
  | kdestroy k' => obtain rfl := eq_of_beq h; exact kdestroy_ignores_other k'
  | _ => cases h

theorem modeCommand_ignores_other (c : Config) {k : SlotId} {i : Instr} (h : modeCommandOn k i = true) :
    IgnoresSlot k.other (execWith c i) := by
  cases i with
  | ecbenc k' => obtain rfl := eq_of_beq h; exact ecbCommand_ignores_other c k' (blockEnc c)
  | ecbdec k' => obtain rfl := eq_of_beq h; exact ecbCommand_ignores_other c k' (blockDec c)
  | ctr k' first => obtain rfl := eq_of_beq h; exact ctr_ignores_other c k' first
  | acpkm k' first => obtain rfl := eq_of_beq h; exact acpkm_ignores_other c k' first
  | omac k' => obtain rfl := eq_of_beq h; exact omac_ignores_other c k'
  | _ => cases h

/-- Settles O30: each command on slot `k` ignores the other slot, so it leaves it unchanged. -/
theorem commandsLeaveTheOtherSlot : Obligations.CommandsLeaveTheOtherSlot := by
  unfold Obligations.CommandsLeaveTheOtherSlot
  intro i s t k other hi ht
  have ignores : IgnoresSlot k.other (execWith Config.machine i) :=
    hi.elim (keyCommand_ignores_other _) (modeCommand_ignores_other _)
  rw [exec_eq_execWith] at ht ⊢
  exact ⟨ignores.slot_eq ht, ignores.next ht other⟩

end Sys2Proof.Machine
end

section
/-! The checks and outputs that the cipher-mode commands share (R110, R114): a check as a proposition, whole lists
written to the front of a buffer, and the number of blocks of a chunk. -/

namespace Sys2Proof.Machine

open Sys2Proof

/-! ### A command by its checks -/

/-- A check, said by the proposition under which it passes. -/
theorem State.command_cons (s : State) {b : Bool} {p : Prop} [Decidable p] (h : b = false ↔ p) (e : ErrCode)
    (cs : List (Bool × ErrCode)) (effect : State → State) :
    s.command ((b, e) :: cs) effect = if p then s.command cs effect else .next (s.raise e) := by
  split
  case isTrue hp => exact State.command_cons_pass s (h.mpr hp) e cs effect
  case isFalse hp => exact State.command_cons_fail s ((Bool.not_eq_false b).mp (mt h.mp hp)) e cs effect

/-- A stream command opens a stream or continues an open one of its kind (R115, R116). -/
theorem cannotContinue_eq_false {first : Bool} {sl : Slot} {kind : StreamKind} :
    (!first && sl.noStream kind) = false ↔ first = true ∨ (sl.live = true ∧ sl.kind = kind) := by
  cases first with
  | true => simp
  | false => simp [noStream_eq_false]

theorem wrongIvLength_eq_false {first : Bool} {n m : Nat} :
    (first && n != m) = false ↔ (first = true → n = m) := by
  cases first with
  | true => simp
  | false => simp

/-- The section size is checked when opening only (R116). -/
theorem wrongSection_eq_false {first : Bool} {bs : Nat} {n : Word} :
    (first && badSection bs n) = false ↔ (first = true → n ≠ 0 ∧ n.toNat % bs = 0) := by
  cases first with
  | true => simp [badSection_eq_false, ← BitVec.toNat_inj]
  | false => simp

/-! ### Bytes written to the front of a buffer -/

theorem Memory.holds_writeBytes {m : Memory} (hm : m.wf = true) {b : List Byte} {n : Nat} {f : Nat → Byte}
    (hlen : b.length = n) (hb : ∀ a, a < n → b.getD a 0 = f a) :
    (m.writeBytes 0 b).Holds fun a => if a < n then f a else m.read a := by
  refine ⟨Memory.wf_writeBytes hm 0 b, fun a => ?_⟩
  have hread := Memory.read_writeBytes hm 0 b a
  rw [hlen, Nat.zero_add, Nat.sub_zero] at hread
  by_cases ha : a < n
  · simp only [hread, ha, Nat.zero_le, and_self, if_true, hb a ha]
  · simp only [hread, ha, and_false, if_false]

/-! ### The blocks of a chunk -/

/-- Block `j` exists exactly when its offset lies in the chunk. -/
theorem lt_numBlocks_iff {bs : Nat} (hbs : 0 < bs) {len j : Nat} : j < numBlocks bs len ↔ j * bs < len := by
  rw [numBlocks, ← Nat.succ_le_iff, Nat.le_div_iff_mul_le hbs, Nat.succ_mul]
  omega

/-- A block that is not the last one is complete. -/
theorem chunkBlock_of_not_last {bs : Nat} (hbs : 0 < bs) (m : Memory) {len j : Nat} (h : j + 1 < numBlocks bs len) :
    chunkBlock m bs len j = m.readBytes (j * bs) bs := by
  rw [lt_numBlocks_iff hbs, Nat.succ_mul] at h
  rw [chunkBlock, Nat.min_eq_left (by omega)]

/-- The last block is what the blocks before it leave. -/
theorem chunkBlock_last {bs : Nat} (hbs : 0 < bs) (m : Memory) {len q : Nat} (h : numBlocks bs len = q + 1) :
    chunkBlock m bs len q = m.readBytes (q * bs) (len - q * bs) := by
  have hend : ¬ (q + 1) * bs < len := by rw [← lt_numBlocks_iff hbs, h]; omega
  rw [Nat.succ_mul] at hend
  rw [chunkBlock, Nat.min_eq_right (by omega)]

@[simp] theorem length_blocks_dataBytes (s : State) (sl : Slot) :
    (blocks sl.bs s.dataBytes).length = numBlocks sl.bs s.dlen.toNat := by
  rw [length_blocks sl.bs_pos, State.length_dataBytes, numBlocks]

theorem getD_blocks_dataBytes (s : State) (sl : Slot) {j : Nat} (h : j < numBlocks sl.bs s.dlen.toNat) :
    (blocks sl.bs s.dataBytes).getD j [] = chunkBlock s.din sl.bs s.dlen.toNat j := by
  rw [State.dataBytes, blocks_readBytes sl.bs_pos, List.getD_eq_getElem _ _ (by simpa using h), List.getElem_map,
    List.getElem_range]

end Sys2Proof.Machine
end

section
/-! What `ECBENC` and `ECBDEC` answer (R111, R112). -/

namespace Sys2Proof.Machine

open Sys2Proof

/-- Byte `a` of the output lies in block `a / bs`, at place `a % bs`. -/
theorem getD_ecb_readBytes {bs : Nat} (hbs : 0 < bs) (f : Block → Block) (m : Memory) {len a : Nat}
    (h : len % bs = 0) (ha : a < len) :
    (ecb f bs (m.readBytes 0 len)).getD a 0 = byteOf bs (f (blockOf (m.readBytes (a / bs * bs) bs))) (a % bs) := by
  have hlen : (ecb f bs (m.readBytes 0 len)).length = len := by
    rw [length_ecb hbs f _ (by simpa using h), Memory.length_readBytes]
  rw [ecb_readBytes hbs f m h] at hlen ⊢
  exact (getD_flatten_pieces (fun j _ => length_bytesOf _ _) (fun j _ => (length_bytesOf _ _).le)
    (lt_of_lt_of_eq ha hlen.symm)).1

/-- The ECB commands by their checks. -/
theorem State.ecbCommand_eq (s : State) (c : Config) (k : SlotId) (f : Bool → Key → Block → Block) :
    s.ecbCommand c k f =
      if (s.slot k).st = .keyed then
        if s.dlen.toNat ≤ c.bufBytes then
          if s.dlen.toNat % (s.slot k).bs = 0 then
            .next (s.writeDout (ecb (f (s.slot k).bs16 (s.slot k).key) (s.slot k).bs s.dataBytes)).finish
          else .next (s.raise .invalidLength)
        else .next (s.raise .invalidParameter)
      else .next (s.raise .invalidParameter) := by
  rw [State.ecbCommand, State.command_cons s notKeyed_eq_false, State.command_cons s dataTooBig_eq_false,
    State.command_cons s partialChunk_eq_false, State.command_nil]

section
variable {s : State} {c : Config} {k : SlotId} {f : Bool → Key → Block → Block}

/-- The checks pass: every block of `DIN` is transformed on its own. -/
theorem State.ecbCommand_of_ready (hdout : s.dout.wf = true) (hst : (s.slot k).st = .keyed)
    (hfits : s.dlen.toNat ≤ c.bufBytes) (hlen : s.dlen.toNat % (s.slot k).bs = 0) :
    let sl := s.slot k
    ∃ d : Memory,
      d.Holds (fun a =>
        if a < s.dlen.toNat then
          byteOf sl.bs (f sl.bs16 sl.key (blockOf (s.din.readBytes (a / sl.bs * sl.bs) sl.bs))) (a % sl.bs)
        else s.dout.read a) ∧
      s.ecbCommand c k f = .next { s with dout := d, err := .ok, verdict := false } := by
  intro sl
  have hbs := sl.bs_pos
  have houtput := length_ecb hbs (f sl.bs16 sl.key) s.dataBytes (by simpa using hlen)
  rw [State.length_dataBytes] at houtput
  refine ⟨_, Memory.holds_writeBytes hdout houtput fun a ha => getD_ecb_readBytes hbs _ s.din hlen ha, ?_⟩
  rw [State.ecbCommand_eq, if_pos hst, if_pos hfits, if_pos hlen]
  rfl

/-- The first failing check: the slot and the buffer size, then whole blocks. -/
theorem State.ecbCommand_of_not_ready
    (h : ¬ ((s.slot k).st = .keyed ∧ s.dlen.toNat ≤ c.bufBytes ∧ s.dlen.toNat % (s.slot k).bs = 0)) :
    s.ecbCommand c k f =
      .next (s.raise (if (s.slot k).st = .keyed ∧ s.dlen.toNat ≤ c.bufBytes then .invalidLength
        else .invalidParameter)) := by
  rw [State.ecbCommand_eq]
  by_cases hst : (s.slot k).st = .keyed
  · by_cases hfits : s.dlen.toNat ≤ c.bufBytes
    · rw [if_pos hst, if_pos hfits, if_neg fun hlen => h ⟨hst, hfits, hlen⟩, if_pos ⟨hst, hfits⟩]
    · rw [if_pos hst, if_neg hfits, if_neg fun both => hfits both.2]
  · rw [if_neg hst, if_neg fun both => hst both.1]

end

/-- Settles O31: `ECBENC` is the ECB command of `Enc`. -/
theorem ecbencResult : Obligations.EcbencResult := by
  unfold Obligations.EcbencResult
  exact fun k s hdout => ⟨State.ecbCommand_of_ready hdout, State.ecbCommand_of_not_ready⟩

/-- Settles O32: `ECBDEC` is the ECB command of `Dec`. -/
theorem ecbdecResult : Obligations.EcbdecResult := by
  unfold Obligations.EcbdecResult
  exact fun k s hdout => ⟨State.ecbCommand_of_ready hdout, State.ecbCommand_of_not_ready⟩

end Sys2Proof.Machine
end

section
/-! What `CTR` and `ACPKM` answer (R113 to R117): the output of a stream byte by byte and the state a stream command
leaves, then each command by its checks. -/

namespace Sys2Proof.Machine

open Sys2Proof

/-! ### The output of a stream -/

/-- The output of a chunk whose block `j` is under the key `key j` and the counter `ctr j`. -/
def streamOutput (c : Config) (sl : Slot) (key : Nat → Key) (ctr : Nat → Block) (bl : List (List Byte)) : List Byte :=
  ((List.range bl.length).map fun j => streamPiece c sl.bs16 sl.bs (key j) (ctr j) (bl.getD j [])).flatten

theorem length_streamPiece (c : Config) (sl : Slot) (key : Key) (ctr : Block) {b : List Byte} (h : b.length ≤ sl.bs) :
    (streamPiece c sl.bs16 sl.bs key ctr b).length = b.length := by
  rw [streamPiece, length_xorBytes, length_bytesOf, Nat.min_eq_left h]

theorem getD_streamPiece (c : Config) (sl : Slot) (key : Key) (ctr : Block) {b : List Byte} (h : b.length ≤ sl.bs)
    {i : Nat} (hi : i < b.length) :
    (streamPiece c sl.bs16 sl.bs key ctr b).getD i 0 = b.getD i 0 ^^^ keystreamByte c sl.bs16 key ctr i := by
  rw [streamPiece, getD_xorBytes hi (by rw [length_bytesOf]; omega)]
  rfl

/-- Byte `a` of the output lies in block `a / bs`, at place `a % bs`. -/
theorem getD_streamOutput {c : Config} {s : State} {sl : Slot} {key : Nat → Key} {ctr : Nat → Block}
    (hlen : (streamOutput c sl key ctr (blocks sl.bs s.dataBytes)).length = s.dlen.toNat) {a : Nat}
    (ha : a < s.dlen.toNat) :
    (streamOutput c sl key ctr (blocks sl.bs s.dataBytes)).getD a 0 =
      s.din.read a ^^^ keystreamByte c sl.bs16 (key (a / sl.bs)) (ctr (a / sl.bs)) (a % sl.bs) := by
  have hbs := sl.bs_pos
  have hblock : ∀ j, j < numBlocks sl.bs s.dlen.toNat → ((blocks sl.bs s.dataBytes).getD j []).length ≤ sl.bs :=
    fun j hj => by rw [getD_blocks_dataBytes s sl hj, length_chunkBlock]; exact Nat.min_le_left _ _
  obtain ⟨hbyte, hj, hi⟩ := getD_flatten_pieces (bs := sl.bs)
    (f := fun j => streamPiece c sl.bs16 sl.bs (key j) (ctr j) ((blocks sl.bs s.dataBytes).getD j []))
    (q := numBlocks sl.bs s.dlen.toNat) (i := a)
    (fun j hj => by
      rw [length_streamPiece c sl _ _ (hblock j (by omega)), getD_blocks_dataBytes s sl (by omega),
        chunkBlock_of_not_last hbs s.din hj, Memory.length_readBytes])
    (fun j hj => by rw [length_streamPiece c sl _ _ (hblock j hj)]; exact hblock j hj)
    (by rw [streamOutput, length_blocks_dataBytes] at hlen; omega)
  rw [length_streamPiece c sl _ _ (hblock _ hj)] at hi
  rw [streamOutput, length_blocks_dataBytes, hbyte, getD_streamPiece c sl _ _ (hblock _ hj) hi]
  rw [getD_blocks_dataBytes s sl hj, length_chunkBlock] at hi
  rw [getD_blocks_dataBytes s sl hj, chunkBlock, Memory.getD_readBytes _ _ _ _ hi, Nat.div_add_mod']

/-! ### The state a stream command leaves -/

theorem State.finish_runStream (s : State) (c : Config) (u : Slot → Key × Slot) (k : SlotId) (sl : Slot) :
    (s.runStream c u k sl).finish =
      ({ s with
          dout := s.dout.writeBytes 0 (stream c u sl (blocks sl.bs s.dataBytes)).2
          err := .ok
          verdict := false } : State).setSlot k
        ((stream c u sl (blocks sl.bs s.dataBytes)).1.closeStream s.dlen.toNat) := by
  rw [State.runStream_eq, State.writeDout_setSlot, State.finish_setSlot]
  rfl

/-- A partial block closes an open stream, which otherwise stays open (R114). -/
theorem Slot.closeStream_of_live {sl : Slot} (h : sl.live = true) (len : Nat) :
    sl.closeStream len = { sl with live := decide (len % sl.bs = 0) } := by
  have hlive : (sl.live && !partialChunk sl.bs len) = decide (len % sl.bs = 0) := by
    rw [h, Bool.true_and, partialChunk, bne, Bool.not_not, beq_eq_decide]
  rw [Slot.closeStream, hlive]

/-- A stream command that ran, from what its stream answers: the slot `last` and the output under the keys `key j`. -/
theorem State.runStream_of_stream {s : State} {c : Config} {u : Slot → Key × Slot} (hu : ∀ sl, (u sl).2.bs = sl.bs)
    (k : SlotId) {sl last : Slot} {key : Nat → Key} {ctr : Nat → Block} (hdout : s.dout.wf = true)
    (hstream : stream c u sl (blocks sl.bs s.dataBytes) =
      (last, streamOutput c sl key ctr (blocks sl.bs s.dataBytes))) (hlive : last.live = true) :
    ∃ d : Memory,
      d.Holds (fun a =>
        if a < s.dlen.toNat then
          s.din.read a ^^^ keystreamByte c sl.bs16 (key (a / sl.bs)) (ctr (a / sl.bs)) (a % sl.bs)
        else s.dout.read a) ∧
      (s.runStream c u k sl).finish =
        ({ s with dout := d, err := .ok, verdict := false } : State).setSlot k
          { last with live := decide (s.dlen.toNat % last.bs = 0) } := by
  have hlen := length_stream (c := c) hu sl (blocks sl.bs s.dataBytes) fun b => length_le_of_mem_blocks sl.bs_pos
  rw [hstream, sum_length_blocks sl.bs_pos, State.length_dataBytes] at hlen
  refine ⟨_, Memory.holds_writeBytes hdout hlen fun a ha => getD_streamOutput hlen ha, ?_⟩
  rw [State.finish_runStream, hstream, Slot.closeStream_of_live hlive]

/-! ### The initial counter -/

theorem ctrSeed_ivBytes (s : State) (bs : Nat) : ctrSeed bs (s.ivBytes (bs / 2)) = ivCounter s bs := by
  rw [ctrSeed, ivCounter, State.ivBytes, show 8 * bs / 2 = 4 * bs by omega]

/-- The `bs/2` bytes of the IV stand in the high half of a block, so the counter has the width of the block. -/
theorem ivCounter_lt (s : State) (sl : Slot) : (ivCounter s sl.bs).toNat < 2 ^ (8 * sl.bs) := by
  have hiv := be_lt (s.ivin.readBytes 0 (sl.bs / 2))
  rw [Memory.length_readBytes] at hiv
  have hsize : 256 ^ (sl.bs / 2) * 2 ^ (8 * sl.bs / 2) = 2 ^ (8 * sl.bs) := by
    rcases sl.bs_cases with ⟨_, h⟩ | ⟨_, h⟩
    · rw [h]; norm_num
    · rw [h]; norm_num
  calc (ivCounter s sl.bs).toNat
    _ ≤ be (s.ivin.readBytes 0 (sl.bs / 2)) * 2 ^ (8 * sl.bs / 2) := by
      rw [ivCounter, BitVec.toNat_ofNat]
      exact Nat.mod_le _ _
    _ < 256 ^ (sl.bs / 2) * 2 ^ (8 * sl.bs / 2) := Nat.mul_lt_mul_of_pos_right hiv (Nat.two_pow_pos _)
    _ = 2 ^ (8 * sl.bs) := hsize

/-! ### `CTR` -/

/-- `CTR` by its checks. -/
theorem ctrWith_eq (c : Config) (k : SlotId) (first : Bool) (s : State) :
    ctrWith c k first s =
      if first = true ∨ ((s.slot k).live = true ∧ (s.slot k).kind = .ctr) then
        if (s.slot k).st = .keyed then
          if s.dlen.toNat ≤ c.bufBytes then
            if first = true → s.ivlen.toNat = (s.slot k).bs / 2 then
              .next (s.runStream c ctrUseKey k
                (if first then (s.slot k).openCtr (s.ivBytes ((s.slot k).bs / 2)) else s.slot k)).finish
            else .next (s.raise .invalidIVLength)
          else .next (s.raise .invalidParameter)
        else .next (s.raise .invalidParameter)
      else .next (s.raise .phaseViolation) := by
  rw [ctrWith, State.command_cons s cannotContinue_eq_false, State.command_cons s notKeyed_eq_false,
    State.command_cons s dataTooBig_eq_false, State.command_cons s wrongIvLength_eq_false, State.command_nil]

/-- An open plain CTR stream over a chunk, from the counter `start`. -/
theorem State.runStream_ctr {s : State} (c : Config) (k : SlotId) {sl : Slot} {start : Block}
    (hdout : s.dout.wf = true) (hctr : sl.ctr = start) (hwidth : start.toNat < 2 ^ (8 * sl.bs))
    (hlive : sl.live = true) (hkind : sl.kind = .ctr) :
    ∃ d : Memory,
      d.Holds (fun a =>
        if a < s.dlen.toNat then
          s.din.read a ^^^ keystreamByte c sl.bs16 sl.key (ctrAt sl.bs start (a / sl.bs)) (a % sl.bs)
        else s.dout.read a) ∧
      (s.runStream c ctrUseKey k sl).finish =
        ({ s with dout := d, err := .ok, verdict := false } : State).setSlot k
          { sl with
            ctr := ctrAt sl.bs start (numBlocks sl.bs s.dlen.toNat)
            live := decide (s.dlen.toNat % sl.bs = 0)
            kind := .ctr } := by
  subst hctr
  have hstream := stream_ctrUseKey c sl hwidth (blocks sl.bs s.dataBytes)
  obtain ⟨d, hd, hrun⟩ := State.runStream_of_stream (key := fun _ => sl.key) ctrUseKey_bs k hdout hstream hlive
  rw [hkind, length_blocks_dataBytes] at hrun
  exact ⟨d, hd, hrun⟩

section
variable {s : State} {c : Config} {k : SlotId} {first : Bool}

theorem ctrWith_of_ready (hdout : s.dout.wf = true) (hinv : (s.slot k).Inv)
    (hopen : first = true ∨ ((s.slot k).live = true ∧ (s.slot k).kind = .ctr)) (hst : (s.slot k).st = .keyed)
    (hfits : s.dlen.toNat ≤ c.bufBytes) (hiv : first = true → s.ivlen.toNat = (s.slot k).bs / 2) :
    let sl := s.slot k
    let start := if first then ivCounter s sl.bs else sl.ctr
    ∃ d : Memory,
      d.Holds (fun a =>
        if a < s.dlen.toNat then
          s.din.read a ^^^ keystreamByte c sl.bs16 sl.key (ctrAt sl.bs start (a / sl.bs)) (a % sl.bs)
        else s.dout.read a) ∧
      ctrWith c k first s =
        .next (({ s with dout := d, err := .ok, verdict := false } : State).setSlot k
          { sl with
            ctr := ctrAt sl.bs start (numBlocks sl.bs s.dlen.toNat)
            live := decide (s.dlen.toNat % sl.bs = 0)
            kind := .ctr }) := by
  intro sl start
  rw [ctrWith_eq, if_pos hopen, if_pos hst, if_pos hfits, if_pos hiv]
  cases first with
  | true =>
    obtain ⟨d, hd, hrun⟩ := State.runStream_ctr c k (sl := sl.openCtr (s.ivBytes (sl.bs / 2))) hdout
      (ctrSeed_ivBytes s sl.bs) (ivCounter_lt s sl) rfl rfl
    exact ⟨d, hd, congrArg Host.Outcome.next hrun⟩
  | false =>
    obtain ⟨hlive, hkind⟩ := hopen.resolve_left Bool.false_ne_true
    obtain ⟨d, hd, hrun⟩ := State.runStream_ctr c k hdout rfl hinv.ctr_width hlive hkind
    exact ⟨d, hd, congrArg Host.Outcome.next hrun⟩

/-- The first failing check: the stream to continue, the slot and the buffer size, then the IV length. -/
theorem ctrWith_of_not_ready
    (h : ¬ ((first = true ∨ ((s.slot k).live = true ∧ (s.slot k).kind = .ctr)) ∧ (s.slot k).st = .keyed ∧
      s.dlen.toNat ≤ c.bufBytes ∧ (first = true → s.ivlen.toNat = (s.slot k).bs / 2))) :
    ctrWith c k first s =
      .next (s.raise
        (if ¬ (first = true ∨ ((s.slot k).live = true ∧ (s.slot k).kind = .ctr)) then .phaseViolation
         else if (s.slot k).st = .keyed ∧ s.dlen.toNat ≤ c.bufBytes then .invalidIVLength
         else .invalidParameter)) := by
  rw [ctrWith_eq]
  by_cases hopen : first = true ∨ ((s.slot k).live = true ∧ (s.slot k).kind = .ctr)
  · rw [if_pos hopen, if_neg (not_not.mpr hopen)]
    by_cases hst : (s.slot k).st = .keyed
    · by_cases hfits : s.dlen.toNat ≤ c.bufBytes
      · rw [if_pos hst, if_pos hfits, if_neg fun hiv => h ⟨hopen, hst, hfits, hiv⟩, if_pos ⟨hst, hfits⟩]
      · rw [if_pos hst, if_neg hfits, if_neg fun both => hfits both.2]
    · rw [if_neg hst, if_neg fun both => hst both.1]
  · rw [if_neg hopen, if_pos hopen]

end

/-- Settles O34: the checks of `CTR` in order, and the stream under the installed key when all pass. -/
theorem ctrResult : Obligations.CtrResult := by
  unfold Obligations.CtrResult
  exact fun k first s hdout hinv => ⟨ctrWith_of_ready hdout hinv, ctrWith_of_not_ready⟩

/-! ### `ACPKM` -/

theorem sectionPos_eq (bs n p q : Nat) :
    sectionPos bs n p q = if q = 0 then p else (p + (q - 1) * bs) % n + bs := by
  cases q with
  | zero => rfl
  | succ q => rfl

theorem evolutionsAfter_eq (bs n p q : Nat) :
    evolutionsAfter bs n p q = if q = 0 then 0 else (p + (q - 1) * bs) / n := by
  cases q with
  | zero => rfl
  | succ q => rfl

/-- `ACPKM` by its checks. -/
theorem acpkmWith_eq (c : Config) (k : SlotId) (first : Bool) (s : State) :
    acpkmWith c k first s =
      if first = true ∨ ((s.slot k).live = true ∧ (s.slot k).kind = .acpkm) then
        if (s.slot k).st = .keyed then
          if s.dlen.toNat ≤ c.bufBytes then
            if first = true → s.secsz ≠ 0 ∧ s.secsz.toNat % (s.slot k).bs = 0 then
              if first = true → s.ivlen.toNat = (s.slot k).bs / 2 then
                .next (s.runStream c (acpkmUseKey c) k
                  (if first then (s.slot k).openAcpkm (s.ivBytes ((s.slot k).bs / 2)) s.secsz else s.slot k)).finish
              else .next (s.raise .invalidIVLength)
            else .next (s.raise .invalidParameter)
          else .next (s.raise .invalidParameter)
        else .next (s.raise .invalidParameter)
      else .next (s.raise .phaseViolation) := by
  rw [acpkmWith, State.command_cons s cannotContinue_eq_false, State.command_cons s notKeyed_eq_false,
    State.command_cons s dataTooBig_eq_false, State.command_cons s wrongSection_eq_false,
    State.command_cons s wrongIvLength_eq_false, State.command_nil]

/-- The place in the section that an open ACPKM stream starts a chunk from (R28, R116, R117). -/
structure Slot.InSection (sl : Slot) : Prop where
  secpos_le : sl.secpos.toNat ≤ sl.secsz.toNat
  secsz_blocks : sl.secsz.toNat % sl.bs = 0
  secpos_blocks : sl.secpos.toNat % sl.bs = 0
  secsz_pos : 0 < sl.secsz.toNat

theorem Slot.Inv.inSection {sl : Slot} (h : sl.Inv) (hlive : sl.live = true) (hkind : sl.kind = .acpkm) :
    sl.InSection :=
  ⟨h.secpos_le, h.secsz_blocks, h.secpos_blocks, h.live_acpkm hlive hkind⟩

theorem Slot.inSection_openAcpkm {sl : Slot} {n : Word} (h : n ≠ 0 ∧ n.toNat % sl.bs = 0) (iv : List Byte) :
    (sl.openAcpkm iv n).InSection where
  secpos_le := Nat.zero_le _
  secsz_blocks := h.2
  secpos_blocks := Nat.zero_mod _
  secsz_pos := Nat.pos_of_ne_zero fun hn => h.1 (BitVec.eq_of_toNat_eq hn)

/-- An open ACPKM stream over a chunk, from the counter `start`. -/
theorem State.runStream_acpkm {s : State} (c : Config) (k : SlotId) {sl : Slot} {start : Block}
    (hdout : s.dout.wf = true) (hctr : sl.ctr = start) (hwidth : start.toNat < 2 ^ (8 * sl.bs))
    (hsection : sl.InSection) (hlive : sl.live = true) (hkind : sl.kind = .acpkm) :
    let q := numBlocks sl.bs s.dlen.toNat
    ∃ d : Memory,
      d.Holds (fun a =>
        if a < s.dlen.toNat then
          s.din.read a ^^^
            keystreamByte c sl.bs16
              (evolved c sl.bs16 sl.wkey ((sl.secpos.toNat + a / sl.bs * sl.bs) / sl.secsz.toNat))
              (ctrAt sl.bs start (a / sl.bs)) (a % sl.bs)
        else s.dout.read a) ∧
      (s.runStream c (acpkmUseKey c) k sl).finish =
        ({ s with dout := d, err := .ok, verdict := false } : State).setSlot k
          { sl with
            ctr := ctrAt sl.bs start q
            live := decide (s.dlen.toNat % sl.bs = 0)
            kind := .acpkm
            wkey := evolved c sl.bs16 sl.wkey
              (if q = 0 then 0 else (sl.secpos.toNat + (q - 1) * sl.bs) / sl.secsz.toNat)
            secpos := BitVec.ofNat 32
              (if q = 0 then sl.secpos.toNat
               else (sl.secpos.toNat + (q - 1) * sl.bs) % sl.secsz.toNat + sl.bs) } := by
  intro q
  subst hctr
  obtain ⟨p, hp, _, _, hstream⟩ := stream_acpkmUseKey c sl hwidth hsection.secpos_le hsection.secsz_blocks
    hsection.secpos_blocks hsection.secsz_pos (blocks sl.bs s.dataBytes)
  obtain ⟨d, hd, hrun⟩ := State.runStream_of_stream
    (key := fun j => evolved c sl.bs16 sl.wkey (evolutions sl.bs sl.secsz.toNat sl.secpos.toNat j))
    (acpkmUseKey_bs c) k hdout hstream hlive
  have hpos : p = BitVec.ofNat 32 (sectionPos sl.bs sl.secsz.toNat sl.secpos.toNat q) := by
    rw [length_blocks_dataBytes] at hp
    rw [← hp, BitVec.ofNat_toNat, BitVec.setWidth_eq]
  rw [hkind, length_blocks_dataBytes, evolutionsAfter_eq, hpos, sectionPos_eq] at hrun
  exact ⟨d, hd, hrun⟩

section
variable {s : State} {c : Config} {k : SlotId} {first : Bool}

theorem acpkmWith_of_ready (hdout : s.dout.wf = true) (hinv : (s.slot k).Inv)
    (hopen : first = true ∨ ((s.slot k).live = true ∧ (s.slot k).kind = .acpkm)) (hst : (s.slot k).st = .keyed)
    (hfits : s.dlen.toNat ≤ c.bufBytes)
    (hsection : first = true → s.secsz ≠ 0 ∧ s.secsz.toNat % (s.slot k).bs = 0)
    (hiv : first = true → s.ivlen.toNat = (s.slot k).bs / 2) :
    let sl := s.slot k
    let start := if first then ivCounter s sl.bs else sl.ctr
    let key := if first then sl.key else sl.wkey
    let size := if first then s.secsz else sl.secsz
    let pos := if first then 0 else sl.secpos.toNat
    let q := numBlocks sl.bs s.dlen.toNat
    ∃ d : Memory,
      d.Holds (fun a =>
        if a < s.dlen.toNat then
          s.din.read a ^^^
            keystreamByte c sl.bs16 (evolved c sl.bs16 key ((pos + a / sl.bs * sl.bs) / size.toNat))
              (ctrAt sl.bs start (a / sl.bs)) (a % sl.bs)
        else s.dout.read a) ∧
      acpkmWith c k first s =
        .next (({ s with dout := d, err := .ok, verdict := false } : State).setSlot k
          { sl with
            ctr := ctrAt sl.bs start q
            live := decide (s.dlen.toNat % sl.bs = 0)
            kind := .acpkm
            wkey := evolved c sl.bs16 key (if q = 0 then 0 else (pos + (q - 1) * sl.bs) / size.toNat)
            secsz := size
            secpos := BitVec.ofNat 32 (if q = 0 then pos else (pos + (q - 1) * sl.bs) % size.toNat + sl.bs) }) := by
  intro sl start key size pos q
  rw [acpkmWith_eq, if_pos hopen, if_pos hst, if_pos hfits, if_pos hsection, if_pos hiv]
  cases first with
  | true =>
    obtain ⟨d, hd, hrun⟩ := State.runStream_acpkm c k (sl := sl.openAcpkm (s.ivBytes (sl.bs / 2)) s.secsz) hdout
      (ctrSeed_ivBytes s sl.bs) (ivCounter_lt s sl) (Slot.inSection_openAcpkm (hsection rfl) _) rfl rfl
    exact ⟨d, hd, congrArg Host.Outcome.next hrun⟩
  | false =>
    obtain ⟨hlive, hkind⟩ := hopen.resolve_left Bool.false_ne_true
    obtain ⟨d, hd, hrun⟩ := State.runStream_acpkm c k hdout rfl hinv.ctr_width (hinv.inSection hlive hkind) hlive hkind
    exact ⟨d, hd, congrArg Host.Outcome.next hrun⟩

/-- The first failing check: the stream to continue, the slot, the buffer size and the section size, then the IV
length. -/
theorem acpkmWith_of_not_ready
    (h : ¬ ((first = true ∨ ((s.slot k).live = true ∧ (s.slot k).kind = .acpkm)) ∧ (s.slot k).st = .keyed ∧
      s.dlen.toNat ≤ c.bufBytes ∧ (first = true → s.secsz ≠ 0 ∧ s.secsz.toNat % (s.slot k).bs = 0) ∧
      (first = true → s.ivlen.toNat = (s.slot k).bs / 2))) :
    acpkmWith c k first s =
      .next (s.raise
        (if ¬ (first = true ∨ ((s.slot k).live = true ∧ (s.slot k).kind = .acpkm)) then .phaseViolation
         else if (s.slot k).st = .keyed ∧ s.dlen.toNat ≤ c.bufBytes ∧
           (first = true → s.secsz ≠ 0 ∧ s.secsz.toNat % (s.slot k).bs = 0) then .invalidIVLength
         else .invalidParameter)) := by
  rw [acpkmWith_eq]
  by_cases hopen : first = true ∨ ((s.slot k).live = true ∧ (s.slot k).kind = .acpkm)
  · rw [if_pos hopen, if_neg (not_not.mpr hopen)]
    by_cases hst : (s.slot k).st = .keyed
    · rw [if_pos hst]
      by_cases hfits : s.dlen.toNat ≤ c.bufBytes
      · rw [if_pos hfits]
        by_cases hsection : first = true → s.secsz ≠ 0 ∧ s.secsz.toNat % (s.slot k).bs = 0
        · rw [if_pos hsection, if_neg fun hiv => h ⟨hopen, hst, hfits, hsection, hiv⟩,
            if_pos ⟨hst, hfits, hsection⟩]
        · rw [if_neg hsection, if_neg fun all => hsection all.2.2]
      · rw [if_neg hfits, if_neg fun all => hfits all.2.1]
    · rw [if_neg hst, if_neg fun all => hst all.1]
  · rw [if_neg hopen, if_pos hopen]

end

/-- Settles O37: the checks of `ACPKM` in order, and the stream under the evolving key when all pass. -/
theorem acpkmResult : Obligations.AcpkmResult := by
  unfold Obligations.AcpkmResult
  exact fun k first s hdout hinv => ⟨acpkmWith_of_ready hdout hinv, acpkmWith_of_not_ready⟩

end Sys2Proof.Machine
end

section
/-! What `OMAC` answers (R120). -/

namespace Sys2Proof.Machine

open Sys2Proof

/-- The chaining value over blocks `blk 0, blk 1, ...`, as a fold. -/
theorem foldl_omac_eq_omacChained (c : Config) (bs16 : Bool) (key : Key) (blk : Nat → Block) (q : Nat) :
    (List.range q).foldl (fun ch j => blockEnc c bs16 key (ch ^^^ blk j)) 0 = omacChained c bs16 key blk q := by
  induction q with
  | zero => rfl
  | succ q ih => rw [List.range_succ, List.foldl_append, ih]; rfl

theorem omacLast_eq (bs : Nat) (subkeys : Block × Block) (last : List Byte) :
    omacLast bs subkeys last =
      if last.length = bs then blockOf last ^^^ subkeys.1
      else blockOf (last ++ [0x80] ++ List.replicate (bs - last.length - 1) 0) ^^^ subkeys.2 := by
  rw [omacLast, List.append_assoc]
  rfl

/-- The chain over a chunk: all blocks but the last are complete and chained; the empty message has one empty block. -/
theorem omacChain_readBytes (c : Config) (bs16 : Bool) (key : Key) {bs : Nat} (hbs : 0 < bs) (m : Memory) (len : Nat) :
    let q := max 1 (numBlocks bs len)
    omacChain (blockEnc c bs16 key) 0 (blocks bs (m.readBytes 0 len)) =
      (omacChained c bs16 key (fun j => blockOf (m.readBytes (j * bs) bs)) (q - 1),
       m.readBytes ((q - 1) * bs) (len - (q - 1) * bs)) := by
  intro q
  rw [omacChain_eq, blocks_readBytes hbs]
  cases hq : numBlocks bs len with
  | zero =>
    have hempty : len = 0 := by
      have := (lt_numBlocks_iff hbs (len := len) (j := 0)).not
      omega
    rw [show q - 1 = 0 by omega, hempty, Nat.zero_mul]
    rfl
  | succ n =>
    have hlast : q - 1 = n := by omega
    rw [hlast, List.range_succ, List.map_append, List.map_singleton, List.dropLast_concat, List.getLastD_concat,
      chunkBlock_last hbs m hq, List.foldl_map, ← foldl_omac_eq_omacChained]
    refine congrArg (·, _) (List.foldl_ext _ _ _ fun ch j hj => ?_)
    rw [chunkBlock_of_not_last hbs m (by rw [hq]; have := List.mem_range.mp hj; omega)]

/-- `OMAC` by its checks. -/
theorem omacWith_eq (c : Config) (k : SlotId) (s : State) :
    omacWith c k s =
      if (s.slot k).st = .keyed then
        if s.dlen.toNat ≤ c.bufBytes then
          .next (s.writeTag (bytesOf (s.slot k).bs
            (omac (s.slot k).bs16 (s.slot k).bs (blockEnc c (s.slot k).bs16 (s.slot k).key) s.dataBytes).toNat ++
              zeros (16 - (s.slot k).bs))).finish
        else .next (s.raise .invalidParameter)
      else .next (s.raise .invalidParameter) := by
  rw [omacWith, State.command_cons s notKeyed_eq_false, State.command_cons s dataTooBig_eq_false, State.command_nil]

/-- A tag of `bs` bytes in `TAG`, with zeros after it. -/
theorem Memory.holds_writeBytes_tag {m : Memory} (hm : m.wf = true) {bs : Nat} (h : bs ≤ 16) (v : Block) :
    (m.writeBytes 0 (bytesOf bs v.toNat ++ zeros (16 - bs))).Holds fun a =>
      if a < bs then byteOf bs v a else if a < 16 then 0 else m.read a := by
  have hlen : (bytesOf bs v.toNat ++ zeros (16 - bs)).length = 16 := by
    rw [List.length_append, length_bytesOf, length_zeros]
    omega
  obtain ⟨hwf, hread⟩ := Memory.holds_writeBytes hm hlen fun a _ => rfl
  refine ⟨hwf, fun a => (hread a).trans ?_⟩
  beta_reduce
  by_cases ha : a < bs
  · rw [if_pos (by omega), if_pos ha, List.getD_append _ _ _ _ (by rwa [length_bytesOf])]
    rfl
  · rw [if_neg ha, List.getD_append_right _ _ _ _ (by rw [length_bytesOf]; omega), getD_zeros]

/-- Settles O39: the checks of `OMAC`, then the chain over all blocks but the last and the masked last block. -/
theorem omacResult : Obligations.OmacResult := by
  unfold Obligations.OmacResult
  intro k s htag sl enc sk1 q last masked chained
  refine ⟨fun hst hfits => ?ready, fun h => ?notReady⟩
  case ready =>
    have hvalue : omac sl.bs16 sl.bs enc s.dataBytes = enc (chained ^^^ masked) := by
      rw [omac, State.dataBytes, omacChain_readBytes _ _ _ sl.bs_pos]
      exact congrArg (fun x => enc (chained ^^^ x)) (omacLast_eq sl.bs (omacSubkeys sl.bs16 enc) last)
    refine ⟨_, Memory.holds_writeBytes_tag htag sl.bs_le _, ?_⟩
    rw [← hvalue]
    exact (omacWith_eq _ k s).trans (by rw [if_pos hst, if_pos hfits]; rfl)
  case notReady =>
    refine (omacWith_eq _ k s).trans ?_
    by_cases hst : sl.st = .keyed
    · rw [if_pos hst, if_neg fun hfits => h ⟨hst, hfits⟩]
    · rw [if_neg hst]

end Sys2Proof.Machine
end

section
/-! What `MGMACLEAN`, `MGMAUPD`, `MGMECLEAN` and `MGMFIN` answer (R131 to R137, R142 to R144): the checks of the
streaming commands as propositions, the two ends of a chunk command, and the results. -/

namespace Sys2Proof.Machine

open Sys2Proof

/-! ### The checks of the streaming commands -/

theorem unusable_eq_false {s : State} {k : SlotId} : (!s.mgmKeyOk k) = false ↔ UsableInMgm s k := by
  rw [Bool.not_eq_false', mgmKeyOk_iff]

theorem eitherUnusable_eq_false {s : State} {k k' : SlotId} :
    (!s.mgmKeyOk k || !s.mgmKeyOk k') = false ↔ UsableInMgm s k ∧ UsableInMgm s k' := by
  rw [Bool.or_eq_false_iff, unusable_eq_false, unusable_eq_false]

/-- A chunk command asks for its phase, which a partial block has not closed (R130). -/
theorem wrongPhaseOrClosed_eq_false {p q : Phase} {closed : Bool} :
    (p != q || closed) = false ↔ p = q ∧ closed = false := by
  rw [Bool.or_eq_false_iff, bne_eq_false_iff_eq]

theorem neitherPhase_eq_false {p q r : Phase} : (p != q && p != r) = false ↔ p = q ∨ p = r := by
  rw [Bool.and_eq_false_iff, bne_eq_false_iff_eq, bne_eq_false_iff_eq]

theorem ivTooLong_eq_false {s : State} : decide (16 ≤ s.ivlen.toNat) = false ↔ s.ivlen.toNat < 16 := by
  rw [decide_eq_false_iff_not, not_le]

/-! ### A chunk command by its checks

`MGMAUPD`, `MGMENC` and `MGMDEC` check the phase, the buffer size, the keys and the counter, in this order. -/

section
variable {wrongPhase tooBig unusable overflow : Bool} {accepted fits usable counts : Prop}
  [Decidable accepted] [Decidable fits] [Decidable usable] [Decidable counts] {s : State} {effect : State → State}
  (hphase : wrongPhase = false ↔ accepted) (hfits : tooBig = false ↔ fits) (husable : unusable = false ↔ usable)
  (hcounts : overflow = false ↔ counts)
include hphase hfits husable hcounts

theorem State.chunkCommand_eq :
    s.command [(wrongPhase, .phaseViolation), (tooBig, .invalidParameter), (unusable, .invalidParameter),
        (overflow, .dataTooLong)] effect =
      if accepted then
        if fits then
          if usable then
            if counts then .next (effect s).finish
            else .next (s.raise .dataTooLong)
          else .next (s.raise .invalidParameter)
        else .next (s.raise .invalidParameter)
      else .next (s.raise .phaseViolation) := by
  rw [State.command_cons s hphase, State.command_cons s hfits, State.command_cons s husable,
    State.command_cons s hcounts, State.command_nil]

theorem State.chunkCommand_of_ready (h : accepted ∧ fits ∧ usable ∧ counts) :
    s.command [(wrongPhase, .phaseViolation), (tooBig, .invalidParameter), (unusable, .invalidParameter),
        (overflow, .dataTooLong)] effect = .next (effect s).finish := by
  obtain ⟨ha, hf, hu, hc⟩ := h
  rw [State.chunkCommand_eq hphase hfits husable hcounts, if_pos ha, if_pos hf, if_pos hu, if_pos hc]

theorem State.chunkCommand_of_not_ready (h : ¬ (accepted ∧ fits ∧ usable ∧ counts)) :
    s.command [(wrongPhase, .phaseViolation), (tooBig, .invalidParameter), (unusable, .invalidParameter),
        (overflow, .dataTooLong)] effect =
      .next (s.raise
        (if ¬ accepted then .phaseViolation else if fits ∧ usable then .dataTooLong else .invalidParameter)) := by
  rw [State.chunkCommand_eq hphase hfits husable hcounts]
  by_cases ha : accepted
  · rw [if_pos ha, if_neg (not_not.mpr ha)]
    by_cases hf : fits
    · by_cases hu : usable
      · rw [if_pos hf, if_pos hu, if_neg fun hc => h ⟨ha, hf, hu, hc⟩, if_pos ⟨hf, hu⟩]
      · rw [if_pos hf, if_neg hu, if_neg fun both => hu both.2]
    · rw [if_neg hf, if_neg fun both => hf both.1]
  · rw [if_neg ha, if_pos ha]

end

/-! ### The blocks of a chunk read from a buffer -/

theorem length_blocks_readBytes {bs : Nat} (hbs : 0 < bs) (m : Memory) (len : Nat) :
    (blocks bs (m.readBytes 0 len)).length = numBlocks bs len := by
  rw [blocks_readBytes hbs, List.length_map, List.length_range]

theorem getD_blocks_readBytes {bs : Nat} (hbs : 0 < bs) (m : Memory) {len j : Nat} (h : j < numBlocks bs len) :
    (blocks bs (m.readBytes 0 len)).getD j [] = chunkBlock m bs len j := by
  rw [List.getD_eq_getElem _ _ (by rwa [length_blocks_readBytes hbs]), getElem_blocks hbs, Memory.drop_readBytes,
    Memory.take_readBytes, Nat.zero_add]
  rfl

/-- A closed flag that was open becomes whether the chunk ends in a partial block (R33). -/
theorem or_partialChunk_of_open {closed : Bool} (h : closed = false) (bs len : Nat) :
    (closed || partialChunk bs len) = decide (len % bs ≠ 0) := by
  rw [h, Bool.false_or, partialChunk, bne, beq_eq_decide, decide_not]

/-! ### `MGMACLEAN` -/

/-- `MGMACLEAN` by its checks. -/
theorem mgmacleanWith_eq (c : Config) (ek ak : SlotId) (s : State) :
    mgmacleanWith c ek ak s =
      if UsableInMgm s ek ∧ UsableInMgm s ak then
        if s.ivlen.toNat < 16 then .next (s.authClean c ek ak).finish
        else .next (s.raise .invalidIVLength)
      else .next (s.raise .invalidParameter) := by
  rw [mgmacleanWith, State.command_cons s eitherUnusable_eq_false, State.command_cons s ivTooLong_eq_false,
    State.command_nil]

theorem seed_one (iv : List Byte) : seed 1 iv = BitVec.ofNat 128 (2 ^ 127 + be iv) := by
  rw [seed, Nat.one_mul]

theorem seed_zero (iv : List Byte) : seed 0 iv = BitVec.ofNat 128 (be iv) := by
  rw [seed, Nat.zero_mul, Nat.zero_add]

theorem State.getElem_latchedIv (s : State) (j : Fin 16) :
    s.latchedIv[j] = if j.val < s.ivlen.toNat then s.ivin.read j.val else 0 := by
  rw [State.latchedIv, Fin.getElem_fin, Vector.getElem_ofFn]

/-- The session that `MGMACLEAN` opens (R135). -/
theorem State.finish_authClean (s : State) (c : Config) (ek ak : SlotId) :
    (s.authClean c ek ak).finish =
      { s with
        tag := s.tag.writeBytes 0 (zeros 16)
        m :=
          { phase := .auth
            sum := 0
            y := 0
            z := blockEnc c true (s.slot ak).key (BitVec.ofNat 128 (2 ^ 127 + be (s.ivin.readBytes 0 s.ivlen.toNat)))
            abits := 0
            pbits := 0
            aclosed := false
            eclosed := false
            iv := s.latchedIv
            ivlen := BitVec.ofNat 5 s.ivlen.toNat
            ek := ek
            ak := ak }
        err := .ok
        verdict := false } := by
  rw [State.authClean, seed_one, BitVec.ofNat_toNat]
  rfl

/-- Settles O43: both checks pass and the session is `State.finish_authClean`, or the first failing one is raised. -/
theorem mgmacleanResult : Obligations.MgmacleanResult := by
  unfold Obligations.MgmacleanResult
  refine fun ek ak s htag => ⟨fun hek hak hiv => ?ready, fun h => (mgmacleanWith_eq _ ek ak s).trans ?notReady⟩
  case ready =>
    refine ⟨_, s.latchedIv, Memory.holds_writeBytes htag (length_zeros 16) fun a _ => getD_zeros 16 a,
      s.getElem_latchedIv, (mgmacleanWith_eq _ ek ak s).trans ?_⟩
    rw [if_pos ⟨hek, hak⟩, if_pos hiv, State.finish_authClean]
  case notReady =>
    by_cases husable : UsableInMgm s ek ∧ UsableInMgm s ak
    · rw [if_pos husable, if_neg fun hiv => h ⟨husable.1, husable.2, hiv⟩, if_pos husable]
    · rw [if_neg husable, if_neg husable]

/-! ### `MGMAUPD` -/

/-- The blocks of the chunk are absorbed in order and the chunk is counted (R134, R136). -/
theorem State.finish_authUpdate {s : State} (c : Config) (hopen : s.m.aclosed = false) :
    let q := numBlocks 16 s.alen.toNat
    (s.authUpdate c).finish =
      { s with
        m :=
          { s.m with
            sum := absorbedSum c (s.slot s.m.ak).key s.m.z s.m.sum
              (fun j => blockOf (pad16 (chunkBlock s.ain 16 s.alen.toNat j))) q
            z := c.incrZ^[q] s.m.z
            abits := BitVec.ofNat 64 (s.m.abits.toNat + 8 * s.alen.toNat)
            aclosed := decide (s.alen.toNat % 16 ≠ 0) }
        err := .ok
        verdict := false } := by
  intro q
  have hblock : ∀ j, j < q → blockOf (pad16 ((blocks 16 s.adBytes).getD j [])) =
      blockOf (pad16 (chunkBlock s.ain 16 s.alen.toNat j)) := fun j hj => by
    rw [State.adBytes, getD_blocks_readBytes (by decide) _ hj]
  have hcount : (blocks 16 s.adBytes).length = q := length_blocks_readBytes (by decide) _ _
  rw [State.authUpdate, absorbAll_eq, hcount, absorbedSum_congr c _ _ _ hblock, or_partialChunk_of_open hopen]
  rfl

/-- Settles O44: `MGMAUPD` is a chunk command whose Effect is `State.finish_authUpdate`. -/
theorem mgmaupdResult : Obligations.MgmaupdResult := by
  unfold Obligations.MgmaupdResult
  intro s akey q accepted
  refine ⟨fun haccepted hfits husable hcounts => ?ready, fun h => ?notReady⟩
  case ready =>
    have hrun := State.chunkCommand_of_ready (s := s) (effect := fun s => s.authUpdate Config.machine)
      wrongPhaseOrClosed_eq_false adTooBig_eq_false unusable_eq_false tooLong_eq_false
      ⟨haccepted, hfits, husable, hcounts⟩
    exact hrun.trans (congrArg Host.Outcome.next (State.finish_authUpdate Config.machine haccepted.2))
  case notReady =>
    exact State.chunkCommand_of_not_ready (s := s) (effect := fun s => s.authUpdate Config.machine)
      wrongPhaseOrClosed_eq_false adTooBig_eq_false unusable_eq_false tooLong_eq_false h

/-! ### `MGMECLEAN` -/

/-- `MGMECLEAN` by its checks. -/
theorem mgmecleanWith_eq (c : Config) (s : State) :
    mgmecleanWith c s =
      if s.m.phase = .auth then
        if UsableInMgm s s.m.ek then .next (s.encClean c).finish
        else .next (s.raise .invalidParameter)
      else .next (s.raise .phaseViolation) := by
  rw [mgmecleanWith, State.command_cons s bne_eq_false_iff_eq, State.command_cons s unusable_eq_false,
    State.command_nil]

/-- The data phase begins: the counter comes from the latched IV (R137). -/
theorem State.finish_encClean (s : State) (c : Config) :
    (s.encClean c).finish =
      { s with
        m :=
          { s.m with
            phase := .enc
            y := blockEnc c true (s.slot s.m.ek).key (BitVec.ofNat 128 (be (s.m.iv.toList.take s.m.ivlen.toNat)))
            pbits := 0
            eclosed := false }
        err := .ok
        verdict := false } := by
  rw [State.encClean, seed_zero]
  rfl

/-- Settles O45: both checks pass and the session is `State.finish_encClean`, or the first failing one is raised. -/
theorem mgmecleanResult : Obligations.MgmecleanResult := by
  unfold Obligations.MgmecleanResult
  refine fun s => ⟨fun hphase husable => (mgmecleanWith_eq _ s).trans ?ready,
    fun h => (mgmecleanWith_eq _ s).trans ?notReady⟩
  case ready => rw [if_pos hphase, if_pos husable, State.finish_encClean]
  case notReady =>
    by_cases hphase : s.m.phase = .auth
    · rw [if_pos hphase, if_neg fun husable => h ⟨hphase, husable⟩, if_pos hphase]
    · rw [if_neg hphase, if_neg hphase]

/-! ### `MGMFIN` -/

/-- `MGMFIN` by its checks. -/
theorem mgmfinWith_eq (c : Config) (taglen : Nat) (s : State) :
    mgmfinWith c taglen s =
      if s.m.phase = .auth ∨ s.m.phase = .enc then
        if 4 ≤ taglen ∧ taglen ≤ 16 then
          if UsableInMgm s s.m.ak then .next (s.authFinish c taglen).finish
          else .next (s.raise .invalidParameter)
        else .next (s.raise .invalidParameter)
      else .next (s.raise .phaseViolation) := by
  rw [mgmfinWith, State.command_cons s neitherPhase_eq_false, State.command_cons s badTagLength_eq_false,
    State.command_cons s unusable_eq_false, State.command_nil]

/-- The leading bytes of a block in `TAG`, with zeros after them (R144). -/
theorem Memory.holds_writeBytes_truncatedTag {m : Memory} (hm : m.wf = true) {taglen : Nat} (h : taglen ≤ 16)
    (t : Block) :
    (m.writeBytes 0 (truncatedTag taglen t)).Holds fun a =>
      if a < taglen then byteOf 16 t a else if a < 16 then 0 else m.read a := by
  have hkept : ((bytesOf 16 t.toNat).take taglen).length = taglen := by
    rw [List.length_take, length_bytesOf, Nat.min_eq_left h]
  have hlen : (truncatedTag taglen t).length = 16 := by
    rw [truncatedTag, List.length_append, hkept, length_zeros, Nat.add_sub_cancel' h]
  obtain ⟨hwf, hread⟩ := Memory.holds_writeBytes hm hlen fun a _ => rfl
  refine ⟨hwf, fun a => (hread a).trans ?_⟩
  beta_reduce
  by_cases ha : a < taglen
  · have hbyte : ((bytesOf 16 t.toNat).take taglen).getD a 0 = byteOf 16 t a := by
      rw [byteOf, List.getD_eq_getElem?_getD, List.getD_eq_getElem?_getD, List.getElem?_take_of_lt ha]
    rw [if_pos (ha.trans_le h), if_pos ha, truncatedTag, List.getD_append _ _ _ _ (by rwa [hkept]), hbyte]
  · rw [if_neg ha, truncatedTag, List.getD_append_right _ _ _ _ (by omega), getD_zeros]

/-- Settles O48: the checks of `MGMFIN` in order, then the tag of the accumulator with the length block absorbed. -/
theorem mgmfinResult : Obligations.MgmfinResult := by
  unfold Obligations.MgmfinResult
  intro taglen s htag enc lengths sum sessionOpen
  refine ⟨fun hopen hmin hmax husable => ?ready, fun h => (mgmfinWith_eq _ taglen s).trans ?notReady⟩
  case ready =>
    refine ⟨_, Memory.holds_writeBytes_truncatedTag htag hmax _, (mgmfinWith_eq _ taglen s).trans ?_⟩
    rw [if_pos hopen, if_pos ⟨hmin, hmax⟩, if_pos husable]
    rfl
  case notReady =>
    by_cases hopen : sessionOpen
    · rw [if_pos hopen, if_pos hopen]
      by_cases hlength : 4 ≤ taglen ∧ taglen ≤ 16
      · rw [if_pos hlength, if_neg fun husable => h ⟨hopen, hlength.1, hlength.2, husable⟩]
      · rw [if_neg hlength]
    · rw [if_neg hopen, if_neg hopen]

end Sys2Proof.Machine
end

section
/-! What `MGMENC` and `MGMDEC` answer (R138 to R140): the output of `Crypt` byte by byte, the session it leaves, and the
two commands, which differ in which bytes are absorbed. -/

namespace Sys2Proof.Machine

open Sys2Proof

/-! ### The output of `Crypt` -/

/-- The data goes through a stream of 16-byte blocks under the encryption key, its counter advanced by `INCR_Y`. -/
theorem State.cryptOutput_eq_streamOutput {s : State} {sl : Slot} (hbs16 : sl.bs16 = true) (c : Config)
    (decrypt : Bool) :
    s.cryptOutput c decrypt =
      streamOutput c sl (fun _ => s.encKey) (fun j => c.incrY^[j] s.m.y) (blocks sl.bs s.dataBytes) := by
  have hbs : sl.bs = 16 := if_pos hbs16
  rw [State.cryptOutput, Machine.crypt_eq, streamOutput, hbs16, hbs]
  rfl

theorem State.getD_cryptOutput {s : State} (husable : UsableInMgm s s.m.ek) (c : Config) (decrypt : Bool) {a : Nat}
    (ha : a < s.dlen.toNat) :
    (s.cryptOutput c decrypt).getD a 0 =
      s.din.read a ^^^ keystreamByte c true s.encKey (c.incrY^[a / 16] s.m.y) (a % 16) := by
  have hlen := s.length_cryptOutput c decrypt
  have hbs : (s.slot s.m.ek).bs = 16 := if_pos husable.2
  rw [State.cryptOutput_eq_streamOutput husable.2] at hlen ⊢
  rw [getD_streamOutput hlen ha, husable.2, hbs]

/-- Where a buffer holds the data under the keystream, its blocks are the output blocks of `Crypt`. -/
theorem chunkBlock_eq_cryptPiece {c : Config} {ekey : Key} {y : Block} {data out : Memory} {len : Nat}
    (hout : ∀ a, a < len → out.read a = data.read a ^^^ keystreamByte c true ekey (c.incrY^[a / 16] y) (a % 16))
    (j : Nat) : chunkBlock out 16 len j = cryptPiece c ekey y j (chunkBlock data 16 len j) := by
  have hlen : (cryptPiece c ekey y j (chunkBlock data 16 len j)).length = min 16 (len - j * 16) := by
    rw [cryptPiece, streamPiece, length_xorBytes, length_bytesOf, length_chunkBlock, Nat.min_eq_left (by omega)]
  refine List.ext_getElem (by rw [hlen, length_chunkBlock]) fun i hi hi' => ?_
  have hplace : i < min 16 (len - j * 16) := by rwa [length_chunkBlock] at hi
  have hblock : i < (chunkBlock data 16 len j).length := by rwa [length_chunkBlock]
  have hks : i < (bytesOf 16 (blockEnc c true ekey (c.incrY^[j] y)).toNat).length := by rw [length_bytesOf]; omega
  calc (chunkBlock out 16 len j)[i]
    _ = out.read (j * 16 + i) := Memory.getElem_readBytes _ _ _ _ _
    _ = data.read (j * 16 + i) ^^^ keystreamByte c true ekey (c.incrY^[j] y) i := by
      rw [hout _ (by omega), show (j * 16 + i) / 16 = j by omega, show (j * 16 + i) % 16 = i by omega]
    _ = (chunkBlock data 16 len j).getD i 0 ^^^ keystreamByte c true ekey (c.incrY^[j] y) i := by
      rw [chunkBlock, Memory.getD_readBytes _ _ _ _ hplace]
    _ = (cryptPiece c ekey y j (chunkBlock data 16 len j)).getD i 0 := (getD_xorBytes hblock hks).symm
    _ = (cryptPiece c ekey y j (chunkBlock data 16 len j))[i] := List.getD_eq_getElem _ _ hi'

/-! ### The session `Crypt` leaves -/

/-- The session after a chunk whose ciphertext stands in the buffer `ciphertext`: the output when encrypting, `DIN` when
decrypting (R138). -/
theorem State.cryptSession_eq {s : State} {c : Config} {decrypt : Bool} {out : Memory}
    (hout : ∀ a, a < s.dlen.toNat →
      out.read a = s.din.read a ^^^ keystreamByte c true s.encKey (c.incrY^[a / 16] s.m.y) (a % 16))
    (hopen : s.m.eclosed = false) :
    let ciphertext := if decrypt then s.din else out
    let q := numBlocks 16 s.dlen.toNat
    s.cryptSession c decrypt =
      { s.m with
        sum := absorbedSum c s.authKey s.m.z s.m.sum
          (fun j => blockOf (pad16 (chunkBlock ciphertext 16 s.dlen.toNat j))) q
        z := c.incrZ^[q] s.m.z
        y := c.incrY^[q] s.m.y
        pbits := BitVec.ofNat 64 (s.m.pbits.toNat + 8 * s.dlen.toNat)
        eclosed := decide (s.dlen.toNat % 16 ≠ 0) } := by
  intro ciphertext q
  have hblock : ∀ j, j < q →
      blockOf (pad16 (if decrypt then (blocks 16 s.dataBytes).getD j []
        else cryptPiece c s.encKey s.m.y j ((blocks 16 s.dataBytes).getD j []))) =
      blockOf (pad16 (chunkBlock ciphertext 16 s.dlen.toNat j)) := fun j hj => by
    rw [State.dataBytes, getD_blocks_readBytes (by decide) _ hj, ← chunkBlock_eq_cryptPiece hout]
    cases decrypt with
    | true => rfl
    | false => rfl
  have hcount : (blocks 16 s.dataBytes).length = q := length_blocks_readBytes (by decide) _ _
  rw [State.cryptSession, Machine.crypt_eq, hcount, absorbedSum_congr c _ _ _ hblock, or_partialChunk_of_open hopen]
  rfl

/-! ### `MGMENC` and `MGMDEC` -/

section
variable {s : State} {c : Config}

/-- A chunk command of the data phase that passed its checks. -/
theorem State.cryptCommand_of_ready (decrypt : Bool) (hdout : s.dout.wf = true)
    (haccepted : s.m.phase = .enc ∧ s.m.eclosed = false) (hfits : s.dlen.toNat ≤ c.bufBytes)
    (husable : UsableInMgm s s.m.ek ∧ UsableInMgm s s.m.ak)
    (hcounts : s.m.pbits.toNat + 8 * s.dlen.toNat ≤ maxBits) :
    let q := numBlocks 16 s.dlen.toNat
    ∃ d : Memory,
      d.Holds (fun a =>
        if a < s.dlen.toNat then
          s.din.read a ^^^ keystreamByte c true (s.slot s.m.ek).key (c.incrY^[a / 16] s.m.y) (a % 16)
        else s.dout.read a) ∧
      s.command (s.cryptChecks c) (fun s => s.crypt c decrypt) =
        .next
          { s with
            dout := d
            m :=
              { s.m with
                sum := absorbedSum c (s.slot s.m.ak).key s.m.z s.m.sum
                  (fun j => blockOf (pad16 (chunkBlock (if decrypt then s.din else d) 16 s.dlen.toNat j))) q
                z := c.incrZ^[q] s.m.z
                y := c.incrY^[q] s.m.y
                pbits := BitVec.ofNat 64 (s.m.pbits.toNat + 8 * s.dlen.toNat)
                eclosed := decide (s.dlen.toNat % 16 ≠ 0) }
            err := .ok
            verdict := false } := by
  intro q
  obtain ⟨hwf, hread⟩ := Memory.holds_writeBytes hdout (s.length_cryptOutput c decrypt) fun a ha =>
    State.getD_cryptOutput husable.1 c decrypt ha
  refine ⟨_, ⟨hwf, hread⟩, ?_⟩
  have hsession := State.cryptSession_eq (decrypt := decrypt) (fun a ha => (hread a).trans (if_pos ha)) haccepted.2
  rw [State.cryptChecks, State.chunkCommand_of_ready wrongPhaseOrClosed_eq_false dataTooBig_eq_false
    eitherUnusable_eq_false tooLong_eq_false ⟨haccepted, hfits, husable, hcounts⟩, State.crypt_eq, hsession]
  rfl

theorem State.cryptCommand_of_not_ready (decrypt : Bool)
    (h : ¬ ((s.m.phase = .enc ∧ s.m.eclosed = false) ∧ s.dlen.toNat ≤ c.bufBytes ∧
      (UsableInMgm s s.m.ek ∧ UsableInMgm s s.m.ak) ∧ s.m.pbits.toNat + 8 * s.dlen.toNat ≤ maxBits)) :
    s.command (s.cryptChecks c) (fun s => s.crypt c decrypt) =
      .next (s.raise
        (if ¬ (s.m.phase = .enc ∧ s.m.eclosed = false) then .phaseViolation
         else if s.dlen.toNat ≤ c.bufBytes ∧ (UsableInMgm s s.m.ek ∧ UsableInMgm s s.m.ak) then .dataTooLong
         else .invalidParameter)) :=
  State.chunkCommand_of_not_ready wrongPhaseOrClosed_eq_false dataTooBig_eq_false eitherUnusable_eq_false
    tooLong_eq_false h

end

/-- Settles O46: `MGMENC` is the chunk command of the data phase that absorbs its output. -/
theorem mgmencResult : Obligations.MgmencResult := by
  unfold Obligations.MgmencResult
  exact fun s hdout => ⟨State.cryptCommand_of_ready false hdout, State.cryptCommand_of_not_ready false⟩

/-- Settles O47: `MGMDEC` is the chunk command of the data phase that absorbs `DIN`. -/
theorem mgmdecResult : Obligations.MgmdecResult := by
  unfold Obligations.MgmdecResult
  exact fun s hdout => ⟨State.cryptCommand_of_ready true hdout, State.cryptCommand_of_not_ready true⟩

end Sys2Proof.Machine
end

section
/-! Which command is accepted in which phase, and the phase after it (R130): `PhaseViolation` is the first check of the
commands that can raise it, and only a command that ran to its end, or an `MGMDECALL` whose tag differs, moves the
phase. -/

namespace Sys2Proof.Machine

open Sys2Proof

/-! ### The code and the phase a command ends with -/

theorem State.authUpdate_phase (s : State) (c : Config) : (s.authUpdate c).m.phase = s.m.phase := by
  rw [State.authUpdate, absorbAll_eq]
  rfl

theorem State.cryptSession_phase (s : State) (c : Config) (decrypt : Bool) :
    (s.cryptSession c decrypt).phase = s.m.phase := by
  rw [State.cryptSession, Machine.crypt_eq]

theorem State.pipeline_phase (s : State) (c : Config) (ek ak : SlotId) (taglen : Nat) (decrypt : Bool) :
    (s.pipeline c ek ak taglen decrypt).m.phase = .finalized := rfl

/-- A command that ran to its end ends with OK, in the phase of R130's table. -/
theorem Ran.err_and_phase {c : Config} {i : Instr} {s t : State} (h : Ran c i s t) :
    t.err = .ok ∧ t.m.phase = phaseAfter s.m i := by
  cases i with
  | kcreate k bs => obtain ⟨_, rfl⟩ := h; simp [phaseAfter]
  | kset k v => obtain ⟨_, rfl⟩ := h; simp [phaseAfter]
  | ksetrnd k v => obtain ⟨_, r, _, rfl⟩ := h; simp [phaseAfter]
  | ksetpwd k v => obtain ⟨_, d, rfl⟩ := h; simp [phaseAfter]
  | kenc k => obtain ⟨_, _, rfl⟩ := h; simp [phaseAfter]
  | kdec k => obtain ⟨_, _, rfl⟩ := h; simp [phaseAfter]
  | kdestroy k => obtain rfl := h; simp [phaseAfter]
  | ecbenc k => obtain ⟨_, _, _, rfl⟩ := h; simp [phaseAfter]
  | ecbdec k => obtain ⟨_, _, _, rfl⟩ := h; simp [phaseAfter]
  | ctr k first => obtain ⟨_, _, _, _, rfl⟩ := h; simp [phaseAfter]
  | acpkm k first => obtain ⟨_, _, _, _, _, rfl⟩ := h; simp [phaseAfter]
  | omac k => obtain ⟨_, _, rfl⟩ := h; simp [phaseAfter]
  | mgmaclean ek ak => obtain ⟨_, _, _, rfl⟩ := h; exact ⟨rfl, rfl⟩
  | mgmaupd =>
    obtain ⟨hphase, _, _, _, _, rfl⟩ := h
    exact ⟨rfl, (s.authUpdate_phase c).trans hphase⟩
  | mgmeclean => obtain ⟨_, _, rfl⟩ := h; exact ⟨rfl, rfl⟩
  | mgmenc =>
    obtain ⟨hphase, _, _, _, _, _, rfl⟩ := h
    exact ⟨rfl, (s.cryptSession_phase c false).trans hphase⟩
  | mgmdec =>
    obtain ⟨hphase, _, _, _, _, _, rfl⟩ := h
    exact ⟨rfl, (s.cryptSession_phase c true).trans hphase⟩
  | mgmfin taglen => obtain ⟨_, _, _, _, rfl⟩ := h; exact ⟨rfl, rfl⟩
  | mgmencall ek ak taglen => obtain ⟨_, rfl⟩ := h; exact ⟨rfl, s.pipeline_phase c ek ak taglen false⟩
  | mgmdecall ek ak taglen => obtain ⟨_, _, rfl⟩ := h; exact ⟨rfl, s.pipeline_phase c ek ak taglen true⟩

/-- A command that failed ends with one of its own codes (R171). -/
theorem Failed.err_mem {c : Config} {i : Instr} {s t : State} (h : Failed c i s t) : t.err ∈ possibleErrors i := by
  rcases h with ⟨e, he, _, _, rfl⟩ | ⟨k, v, e, rfl, he, rfl⟩ | ⟨ek, ak, taglen, rfl, _, _, rfl⟩
  · exact he
  · rcases he with rfl | rfl
    · simp [possibleErrors]
    · simp [possibleErrors]
  · simp [possibleErrors]

theorem ok_notMem_possibleErrors (i : Instr) : ErrCode.ok ∉ possibleErrors i := by
  cases i with | _ => simp [possibleErrors]

/-- A failed command keeps the phase, but for an `MGMDECALL` whose tag differs, which leaves the session FINALIZED
(R31, R162). -/
theorem Failed.phase {c : Config} {i : Instr} {s t : State} (h : Failed c i s t) :
    t.m.phase = if t.err = .authenticationFailed then phaseAfter s.m i else s.m.phase := by
  rcases h with ⟨e, _, he, _, rfl⟩ | ⟨k, v, e, rfl, _, rfl⟩ | ⟨ek, ak, taglen, rfl, _, _, rfl⟩
  · exact (if_neg he).symm
  · exact (ite_self s.m.phase).symm
  · exact (s.pipeline_phase c ek ak taglen true).trans (if_pos rfl).symm

theorem exec_phase {i : Instr} {s t : State} (h : exec i s = .next t) :
    t.m.phase = if t.err = .ok ∨ t.err = .authenticationFailed then phaseAfter s.m i else s.m.phase := by
  rcases exec_cases h with hran | hfailed
  · rw [if_pos (.inl hran.err_and_phase.1)]
    exact hran.err_and_phase.2
  · have hne : t.err ≠ .ok := fun hok => ok_notMem_possibleErrors i (hok ▸ hfailed.err_mem)
    rw [hfailed.phase]
    simp only [hne, false_or]

/-! ### `PhaseViolation` -/

theorem exec_err_ne_phaseViolation {i : Instr} {s t : State} (h : exec i s = .next t)
    (hi : ErrCode.phaseViolation ∉ possibleErrors i) : t.err ≠ .phaseViolation := by
  intro herr
  rcases exec_cases h with hran | hfailed
  · exact absurd (hran.err_and_phase.1.symm.trans herr) nofun
  · exact hi (herr ▸ hfailed.err_mem)

/-- A command whose first check is its phase check, and the only one to raise `PhaseViolation`. -/
theorem State.command_phaseViolation_iff {s t : State} {failed accepted : Bool} {cs : List (Bool × ErrCode)}
    {effect : State → State} (h : s.command ((failed, .phaseViolation) :: cs) effect = .next t)
    (hfailed : failed = !accepted) (hcs : ∀ p ∈ cs, p.2 ≠ .phaseViolation) :
    t.err = .phaseViolation ↔ accepted = false := by
  subst hfailed
  cases accepted with
  | false =>
    obtain ⟨e, he, rfl⟩ | ⟨hpass, _⟩ := State.command_cases h
    · obtain rfl : ErrCode.phaseViolation = e := Option.some.inj he
      exact iff_of_true rfl rfl
    · exact absurd hpass nofun
  | true =>
    rw [Bool.not_true, State.command_cons_pass s rfl] at h
    refine iff_of_false ?_ nofun
    obtain ⟨e, he, rfl⟩ | ⟨_, rfl⟩ := State.command_cases h
    · exact hcs _ (firstFailing_some he)
    · exact nofun

/-- The phase check of the commands that consume a chunk is R130's row. -/
theorem wrongPhaseOrClosed_eq_not (p q : Phase) (closed : Bool) :
    (p != q || closed) = !(p == q && !closed) := by
  rw [Bool.not_and, Bool.not_not]
  rfl

theorem neitherPhase_eq_not (p q r : Phase) : (p != q && p != r) = !(p == q || p == r) :=
  (Bool.not_or _ _).symm

/-- R130's table of `PhaseViolation`; `CTR` and `ACPKM` raise it on account of their stream. -/
theorem exec_phaseViolation_iff {i : Instr} {s t : State} (h : exec i s = .next t)
    (hi : ∀ k first, i ≠ .ctr k first ∧ i ≠ .acpkm k first) :
    t.err = .phaseViolation ↔ acceptedInPhase s.m i = false := by
  cases i with
  | ctr k first => exact absurd rfl (hi k first).1
  | acpkm k first => exact absurd rfl (hi k first).2
  | mgmaupd =>
    rw [exec, execMgmaupd, mgmaupdWith] at h
    exact State.command_phaseViolation_iff h (wrongPhaseOrClosed_eq_not _ _ _) (by simp)
  | mgmeclean =>
    rw [exec, execMgmeclean, mgmecleanWith] at h
    exact State.command_phaseViolation_iff h rfl (by simp)
  | mgmenc =>
    rw [exec, execMgmenc, mgmencWith, State.cryptChecks] at h
    exact State.command_phaseViolation_iff h (wrongPhaseOrClosed_eq_not _ _ _) (by simp)
  | mgmdec =>
    rw [exec, execMgmdec, mgmdecWith, State.cryptChecks] at h
    exact State.command_phaseViolation_iff h (wrongPhaseOrClosed_eq_not _ _ _) (by simp)
  | mgmfin taglen =>
    rw [exec, execMgmfin, mgmfinWith] at h
    exact State.command_phaseViolation_iff h (neitherPhase_eq_not _ _ _) (by simp)
  | _ => exact iff_of_false (exec_err_ne_phaseViolation h (by simp [possibleErrors])) (by simp [acceptedInPhase])

/-- Settles O52: when `PhaseViolation` is raised, and the phase after every command. -/
theorem phaseTable : Obligations.PhaseTable := by
  unfold Obligations.PhaseTable
  exact fun i s t h => ⟨exec_phaseViolation_iff h, exec_phase h⟩

end Sys2Proof.Machine
end

section
/-! The comparison of the tags (R163) is equality of their bytes. -/

namespace Sys2Proof.Machine

open Sys2Proof

theorem State.tagDiff_zero (s : State) : s.tagDiff 0 = 0 := rfl

theorem State.tagDiff_succ (s : State) (t : Nat) :
    s.tagDiff (t + 1) = s.tagDiff t ||| (s.tag.read t ^^^ s.tagin.read t) := by
  rw [State.tagDiff, List.range_succ, List.foldl_append]
  rfl

/-- The accumulated difference is 0 exactly when no byte added one: a set bit is never cleared again. -/
theorem State.tagDiff_eq_zero_iff (s : State) (t : Nat) :
    s.tagDiff t = 0 ↔ ∀ i, i < t → s.tag.read i = s.tagin.read i := by
  induction t with
  | zero => exact iff_of_true s.tagDiff_zero fun i hi => absurd hi i.not_lt_zero
  | succ t ih =>
    rw [State.tagDiff_succ, Nat.forall_lt_succ_right, ← ih]
    exact BitVec.or_eq_zero_iff.trans (and_congr_right' BitVec.xor_eq_zero_iff)

/-- Settles O59: `State.tagDiff_eq_zero_iff`, by induction on the number of bytes compared. -/
theorem tagDiffIsByteEquality : Obligations.TagDiffIsByteEquality := by
  unfold Obligations.TagDiffIsByteEquality
  exact State.tagDiff_eq_zero_iff

end Sys2Proof.Machine
end

section
/-! What the five Effects of the MGM pipeline leave (R160): the session stage by stage, and the two output buffers, with
the writes that later ones cover. -/

namespace Sys2Proof.Machine

open Sys2Proof

/-! ### Bytes overwritten at the front of a buffer -/

/-- A write that covers an earlier one leaves nothing of it. -/
theorem Memory.writeBytes_overwrite {m : Memory} (hm : m.wf = true) {b b' : List Byte} (h : b.length ≤ b'.length) :
    (m.writeBytes 0 b).writeBytes 0 b' = m.writeBytes 0 b' := by
  have hb := Memory.wf_writeBytes hm 0 b
  refine Memory.ext_of_read (Memory.wf_writeBytes hb 0 b') (Memory.wf_writeBytes hm 0 b') fun a => ?_
  rw [Memory.read_writeBytes hb, Memory.read_writeBytes hm 0 b']
  by_cases ha : 0 ≤ a ∧ a < 0 + b'.length
  · rw [if_pos ha, if_pos ha]
  · rw [if_neg ha, if_neg ha, Memory.read_writeBytes_outside hm (by omega)]

theorem Memory.holds_writeBytes_zeros {m : Memory} (hm : m.wf = true) (n : Nat) :
    (m.writeBytes 0 (zeros n)).Holds fun a => if a < n then 0 else m.read a :=
  Memory.holds_writeBytes hm (length_zeros n) fun a _ => getD_zeros n a

theorem length_truncatedTag {taglen : Nat} (h : taglen ≤ 16) (t : Block) : (truncatedTag taglen t).length = 16 := by
  rw [truncatedTag, List.length_append, List.length_take, length_bytesOf, length_zeros]
  omega

/-! ### The latched IV and the lengths -/

/-- The bytes of the latched IV are those of `IVIN` (R34). -/
theorem State.take_latchedIv {s : State} (h : s.ivlen.toNat < 16) :
    s.latchedIv.toList.take (BitVec.ofNat 5 s.ivlen.toNat).toNat = s.ivin.readBytes 0 s.ivlen.toNat := by
  rw [BitVec.toNat_ofNat, Nat.mod_eq_of_lt (by omega)]
  refine List.ext_getElem ?length fun i _ hi => ?byte
  case length =>
    rw [List.length_take, Vector.length_toList, Memory.length_readBytes, Nat.min_eq_left (by omega)]
  case byte =>
    rw [Memory.length_readBytes] at hi
    have hbyte : s.latchedIv[i] = s.ivin.read i := (s.getElem_latchedIv ⟨i, by omega⟩).trans (if_pos hi)
    rw [Memory.getElem_readBytes, List.getElem_take, Vector.getElem_toList, hbyte, Nat.zero_add]

/-- The counters of a session that consumed one chunk of each kind do not wrap (R143). -/
theorem lenBlock_countBits (a p : Word) :
    lenBlock (BitVec.ofNat 64 (8 * a.toNat)) (BitVec.ofNat 64 (8 * p.toNat)) =
      BitVec.ofNat 128 (8 * a.toNat * 2 ^ 64 + 8 * p.toNat) := by
  rw [lenBlock, BitVec.toNat_ofNat, BitVec.toNat_ofNat, Nat.mod_eq_of_lt (by omega), Nat.mod_eq_of_lt (by omega)]

/-! ### Single Effects -/

theorem usableInMgm_of_slot_eq {s t : State} {k : SlotId} (hslot : t.slot k = s.slot k) (h : UsableInMgm s k) :
    UsableInMgm t k := by
  rw [UsableInMgm, hslot]
  exact h

theorem State.crypt_ak (s : State) (c : Config) (decrypt : Bool) : (s.crypt c decrypt).m.ak = s.m.ak := by
  rw [State.crypt_m, State.cryptSession, Machine.crypt_eq]

theorem State.crypt_dout_holds {s : State} (hdout : s.dout.wf = true) (husable : UsableInMgm s s.m.ek) (c : Config)
    (decrypt : Bool) :
    (s.crypt c decrypt).dout.Holds fun a =>
      if a < s.dlen.toNat then s.din.read a ^^^ keystreamByte c true s.encKey (c.incrY^[a / 16] s.m.y) (a % 16)
      else s.dout.read a :=
  Memory.holds_writeBytes hdout (s.length_cryptOutput c decrypt) fun _ ha => State.getD_cryptOutput husable c decrypt ha

theorem State.authFinish_tag (s : State) (c : Config) (taglen : Nat) :
    (s.authFinish c taglen).tag =
      s.tag.writeBytes 0 (truncatedTag taglen (blockEnc c true s.authKey (s.authFinish c taglen).m.sum)) := rfl

/-- What `MGMFIN` leaves of the session (R142). -/
theorem State.authFinish_m (s : State) (c : Config) (taglen : Nat) :
    (s.authFinish c taglen).m =
      { s.m with
        phase := .finalized
        sum := s.m.sum ^^^ c.gfmul (blockEnc c true s.authKey s.m.z) (lenBlock s.m.abits s.m.pbits) } := rfl

/-! ### The stages of the pipeline -/

/-- The state in which the pipeline's data phase begins: the Effects of `MGMACLEAN`, `MGMAUPD` and `MGMECLEAN`. -/
def State.dataPhase (s : State) (c : Config) (ek ak : SlotId) : State :=
  ((s.authClean c ek ak).authUpdate c).encClean c

theorem State.pipeline_eq (s : State) (c : Config) (ek ak : SlotId) (taglen : Nat) (decrypt : Bool) :
    s.pipeline c ek ak taglen decrypt = ((s.dataPhase c ek ak).crypt c decrypt).authFinish c taglen := rfl

@[simp] theorem State.dataPhase_slot (s : State) (c : Config) (ek ak k : SlotId) :
    (s.dataPhase c ek ak).slot k = s.slot k := by
  rw [State.dataPhase, State.encClean_slot, State.authUpdate_slot, State.authClean_slot]

theorem State.dataPhase_dlen (s : State) (c : Config) (ek ak : SlotId) : (s.dataPhase c ek ak).dlen = s.dlen := rfl

theorem State.dataPhase_tag (s : State) (c : Config) (ek ak : SlotId) :
    (s.dataPhase c ek ak).tag = s.tag.writeBytes 0 (zeros 16) := rfl

/-- The five Effects change the session and the two output buffers. -/
theorem State.finish_pipeline (s : State) (c : Config) (ek ak : SlotId) (taglen : Nat) (decrypt : Bool) :
    (s.pipeline c ek ak taglen decrypt).finish =
      { s with
        dout := (s.pipeline c ek ak taglen decrypt).dout
        tag := (s.pipeline c ek ak taglen decrypt).tag
        m := (s.pipeline c ek ak taglen decrypt).m
        err := .ok
        verdict := false } := by
  simp [State.finish]

/-- The session when the data phase begins: the associated data absorbed and counted, and both counters seeded from the
IV (R131, R135 to R137). -/
theorem State.dataPhase_m {s : State} (hivlen : s.ivlen.toNat < 16) (c : Config) (ek ak : SlotId) :
    let iv := be (s.ivin.readBytes 0 s.ivlen.toNat)
    let z := blockEnc c true (s.slot ak).key (BitVec.ofNat 128 (2 ^ 127 + iv))
    let qa := numBlocks 16 s.alen.toNat
    (s.dataPhase c ek ak).m =
      { phase := .enc
        sum := absorbedSum c (s.slot ak).key z 0 (fun j => blockOf (pad16 (chunkBlock s.ain 16 s.alen.toNat j))) qa
        y := blockEnc c true (s.slot ek).key (BitVec.ofNat 128 iv)
        z := c.incrZ^[qa] z
        abits := BitVec.ofNat 64 (8 * s.alen.toNat)
        pbits := 0
        aclosed := decide (s.alen.toNat % 16 ≠ 0)
        eclosed := false
        iv := s.latchedIv
        ivlen := BitVec.ofNat 5 s.ivlen.toNat
        ek := ek
        ak := ak } := by
  intro iv z qa
  have hclean := congrArg State.m (s.finish_authClean c ek ak)
  have hupdate := congrArg State.m (State.finish_authUpdate (s := s.authClean c ek ak) c rfl)
  have hencClean := congrArg State.m (((s.authClean c ek ak).authUpdate c).finish_encClean c)
  have hcount : (0 : DWord).toNat + 8 * s.alen.toNat = 8 * s.alen.toNat := Nat.zero_add _
  simp only [State.finish_m] at hclean hupdate hencClean
  rw [State.dataPhase, hencClean]
  simp only [hupdate, hclean, State.authUpdate_slot, State.authClean_slot, State.authClean_alen, State.authClean_ain,
    State.take_latchedIv hivlen, hcount]
  rfl

/-- `DOUT` is that of before the pipeline, with `DLEN` bytes of output over it. -/
theorem State.pipeline_dout (s : State) (c : Config) (ek ak : SlotId) (taglen : Nat) (decrypt : Bool) :
    (s.pipeline c ek ak taglen decrypt).dout =
      s.dout.writeBytes 0 ((s.dataPhase c ek ak).cryptOutput c decrypt) := rfl

section
variable {s : State} {c : Config} {ek ak : SlotId} {taglen : Nat} (h : PipelineReady c ek ak taglen s)
include h

theorem State.dataPhase_ek : (s.dataPhase c ek ak).m.ek = ek :=
  congrArg Session.ek (State.dataPhase_m h.ivlen_lt c ek ak)

theorem State.dataPhase_ak : (s.dataPhase c ek ak).m.ak = ak :=
  congrArg Session.ak (State.dataPhase_m h.ivlen_lt c ek ak)

theorem State.dataPhase_phase : (s.dataPhase c ek ak).m.phase = .enc :=
  congrArg Session.phase (State.dataPhase_m h.ivlen_lt c ek ak)

theorem State.dataPhase_eclosed : (s.dataPhase c ek ak).m.eclosed = false :=
  congrArg Session.eclosed (State.dataPhase_m h.ivlen_lt c ek ak)

theorem State.dataPhase_pbits : (s.dataPhase c ek ak).m.pbits = 0 :=
  congrArg Session.pbits (State.dataPhase_m h.ivlen_lt c ek ak)

/-- Both keys are as usable in the data phase as they were before the pipeline. -/
theorem State.dataPhase_usable :
    UsableInMgm (s.dataPhase c ek ak) (s.dataPhase c ek ak).m.ek ∧
      UsableInMgm (s.dataPhase c ek ak) (s.dataPhase c ek ak).m.ak := by
  simp only [State.dataPhase_ek h, State.dataPhase_ak h]
  exact ⟨usableInMgm_of_slot_eq (s.dataPhase_slot c ek ak ek) h.ek_usable,
    usableInMgm_of_slot_eq (s.dataPhase_slot c ek ak ak) h.ak_usable⟩

theorem State.dataPhase_encKey : (s.dataPhase c ek ak).encKey = (s.slot ek).key := by
  rw [State.encKey, State.dataPhase_slot, State.dataPhase_ek h]

theorem State.dataPhase_authKey : (s.dataPhase c ek ak).authKey = (s.slot ak).key := by
  rw [State.authKey, State.dataPhase_slot, State.dataPhase_ak h]

theorem State.crypt_dataPhase_authKey (decrypt : Bool) :
    ((s.dataPhase c ek ak).crypt c decrypt).authKey = (s.slot ak).key := by
  rw [State.authKey, State.crypt_slot, State.crypt_ak]
  exact State.dataPhase_authKey h

/-- `DOUT` holds the data under the keystream from the encrypted encryption seed (R131, R138). -/
theorem State.pipeline_dout_holds (hdout : s.dout.wf = true) (decrypt : Bool) :
    let y := blockEnc c true (s.slot ek).key (BitVec.ofNat 128 (be (s.ivin.readBytes 0 s.ivlen.toNat)))
    (s.pipeline c ek ak taglen decrypt).dout.Holds fun a =>
      if a < s.dlen.toNat then
        s.din.read a ^^^ keystreamByte c true (s.slot ek).key (c.incrY^[a / 16] y) (a % 16)
      else s.dout.read a := by
  intro y
  have hy : (s.dataPhase c ek ak).m.y = y := congrArg Session.y (State.dataPhase_m h.ivlen_lt c ek ak)
  rw [← hy, ← State.dataPhase_encKey h]
  exact State.crypt_dout_holds (s := s.dataPhase c ek ak) hdout (State.dataPhase_usable h).1 c decrypt

/-- The session after the data: the ciphertext absorbed and counted (R138). -/
theorem State.crypt_dataPhase_m (hdout : s.dout.wf = true) (decrypt : Bool) :
    let m := (s.dataPhase c ek ak).m
    let ciphertext := if decrypt then s.din else (s.pipeline c ek ak taglen decrypt).dout
    let qd := numBlocks 16 s.dlen.toNat
    ((s.dataPhase c ek ak).crypt c decrypt).m =
      { m with
        sum := absorbedSum c (s.slot ak).key m.z m.sum
          (fun j => blockOf (pad16 (chunkBlock ciphertext 16 s.dlen.toNat j))) qd
        z := c.incrZ^[qd] m.z
        y := c.incrY^[qd] m.y
        pbits := BitVec.ofNat 64 (8 * s.dlen.toNat)
        eclosed := decide (s.dlen.toNat % 16 ≠ 0) } := by
  intro m ciphertext qd
  have hcount : m.pbits.toNat + 8 * s.dlen.toNat = 8 * s.dlen.toNat := by
    rw [State.dataPhase_pbits h]
    exact Nat.zero_add _
  obtain ⟨_, hread⟩ :=
    State.crypt_dout_holds (s := s.dataPhase c ek ak) hdout (State.dataPhase_usable h).1 c decrypt
  rw [State.crypt_m, ← State.dataPhase_authKey h, ← hcount]
  exact State.cryptSession_eq (fun a ha => (hread a).trans (if_pos ha)) (State.dataPhase_eclosed h)

/-- The accumulator over the associated data, the ciphertext and the lengths (R142, R143). -/
theorem State.pipeline_sum (hdout : s.dout.wf = true) (decrypt : Bool) :
    let iv := be (s.ivin.readBytes 0 s.ivlen.toNat)
    let encA := blockEnc c true (s.slot ak).key
    let z := encA (BitVec.ofNat 128 (2 ^ 127 + iv))
    let qa := numBlocks 16 s.alen.toNat
    let qd := numBlocks 16 s.dlen.toNat
    let ciphertext := if decrypt then s.din else (s.pipeline c ek ak taglen decrypt).dout
    (s.pipeline c ek ak taglen decrypt).m.sum =
      absorbedSum c (s.slot ak).key (c.incrZ^[qa] z)
        (absorbedSum c (s.slot ak).key z 0 (fun j => blockOf (pad16 (chunkBlock s.ain 16 s.alen.toNat j))) qa)
        (fun j => blockOf (pad16 (chunkBlock ciphertext 16 s.dlen.toNat j))) qd ^^^
      c.gfmul (encA (c.incrZ^[qd] (c.incrZ^[qa] z)))
        (BitVec.ofNat 128 (8 * s.alen.toNat * 2 ^ 64 + 8 * s.dlen.toNat)) := by
  intro iv encA z qa qd ciphertext
  have hlast := State.crypt_dataPhase_m h hdout decrypt
  rw [State.dataPhase_m h.ivlen_lt] at hlast
  rw [State.pipeline_eq, State.authFinish_m, State.crypt_dataPhase_authKey h, hlast, ← lenBlock_countBits]

/-- The whole session, but for its accumulator (R160, R161). -/
theorem State.pipeline_m (hdout : s.dout.wf = true) (decrypt : Bool) :
    let iv := be (s.ivin.readBytes 0 s.ivlen.toNat)
    let qa := numBlocks 16 s.alen.toNat
    let qd := numBlocks 16 s.dlen.toNat
    (s.pipeline c ek ak taglen decrypt).m =
      { phase := .finalized
        sum := (s.pipeline c ek ak taglen decrypt).m.sum
        y := c.incrY^[qd] (blockEnc c true (s.slot ek).key (BitVec.ofNat 128 iv))
        z := c.incrZ^[qd] (c.incrZ^[qa] (blockEnc c true (s.slot ak).key (BitVec.ofNat 128 (2 ^ 127 + iv))))
        abits := BitVec.ofNat 64 (8 * s.alen.toNat)
        pbits := BitVec.ofNat 64 (8 * s.dlen.toNat)
        aclosed := decide (s.alen.toNat % 16 ≠ 0)
        eclosed := decide (s.dlen.toNat % 16 ≠ 0)
        iv := s.latchedIv
        ivlen := BitVec.ofNat 5 s.ivlen.toNat
        ek := ek
        ak := ak } := by
  intro iv qa qd
  have hlast := State.crypt_dataPhase_m h hdout decrypt
  rw [State.dataPhase_m h.ivlen_lt] at hlast
  rw [State.pipeline_eq, State.authFinish_m, hlast]

/-- `TAG` holds the truncated tag, which covers the zeros `MGMACLEAN` wrote there (R135, R142). -/
theorem State.pipeline_tag (htag : s.tag.wf = true) (decrypt : Bool) :
    let sum := (s.pipeline c ek ak taglen decrypt).m.sum
    (s.pipeline c ek ak taglen decrypt).tag =
      s.tag.writeBytes 0 (truncatedTag taglen (blockEnc c true (s.slot ak).key sum)) := by
  intro sum
  rw [State.pipeline_eq, State.authFinish_tag, State.crypt_tag, State.dataPhase_tag, State.crypt_dataPhase_authKey h]
  exact Memory.writeBytes_overwrite htag (by rw [length_zeros, length_truncatedTag h.taglen_le])

end

end Sys2Proof.Machine
end

section
/-! The combined MGM commands (R160 to R164): the order of their checks, that the streaming commands run the same five
Effects, and the two results. -/

namespace Sys2Proof.Machine

open Sys2Proof

/-! ### The checks of the pipeline -/

/-- The first failing check, by the proposition under which the first of the list passes. -/
theorem firstFailing_cons {b : Bool} {p : Prop} [Decidable p] (h : b = false ↔ p) (e : ErrCode)
    (cs : List (Bool × ErrCode)) : firstFailing ((b, e) :: cs) = if p then firstFailing cs else some e := by
  cases b with
  | false => exact (if_pos (h.mp rfl)).symm
  | true => exact (if_neg fun hp => absurd (h.mpr hp) nofun).symm

theorem eitherTooBig_eq_false {s : State} {c : Config} :
    (s.adTooBig c || s.dataTooBig c) = false ↔ s.alen.toNat ≤ c.bufBytes ∧ s.dlen.toNat ≤ c.bufBytes := by
  rw [Bool.or_eq_false_iff, adTooBig_eq_false, dataTooBig_eq_false]

/-- The error of a pipeline that is not ready: the IV length is checked last, and every check before it raises
`InvalidParameter` (R160). -/
def pipelineError (s : State) (c : Config) (ek ak : SlotId) (taglen : Nat) : ErrCode :=
  if UsableInMgm s ek ∧ UsableInMgm s ak ∧ 4 ≤ taglen ∧ taglen ≤ 16 ∧ s.alen.toNat ≤ c.bufBytes ∧
      s.dlen.toNat ≤ c.bufBytes then .invalidIVLength
  else .invalidParameter

theorem firstFailing_pipelineChecks {s : State} {c : Config} {ek ak : SlotId} {taglen : Nat}
    (h : ¬ PipelineReady c ek ak taglen s) :
    firstFailing (s.pipelineChecks c ek ak taglen) = some (pipelineError s c ek ak taglen) := by
  rw [pipelineError, State.pipelineChecks, firstFailing_cons eitherUnusable_eq_false,
    firstFailing_cons badTagLength_eq_false, firstFailing_cons eitherTooBig_eq_false,
    firstFailing_cons ivTooLong_eq_false]
  by_cases hkeys : UsableInMgm s ek ∧ UsableInMgm s ak
  · rw [if_pos hkeys]
    by_cases hlength : 4 ≤ taglen ∧ taglen ≤ 16
    · rw [if_pos hlength]
      by_cases hfits : s.alen.toNat ≤ c.bufBytes ∧ s.dlen.toNat ≤ c.bufBytes
      · have hiv : ¬ s.ivlen.toNat < 16 := fun hiv =>
          h ⟨hkeys.1, hkeys.2, hlength.1, hlength.2, hfits.1, hfits.2, hiv⟩
        rw [if_pos hfits, if_neg hiv, if_pos (and_assoc.mp ⟨hkeys, and_assoc.mp ⟨hlength, hfits⟩⟩)]
      · rw [if_neg hfits, if_neg fun hall => hfits hall.2.2.2.2]
    · rw [if_neg hlength, if_neg fun hall => hlength ⟨hall.2.2.1, hall.2.2.2.1⟩]
  · rw [if_neg hkeys, if_neg fun hall => hkeys ⟨hall.1, hall.2.1⟩]

/-! ### What the streaming commands and the failure read -/

theorem andThen_next (s : State) (f : State → Host.Outcome State Fault Refusal) : andThen (.next s) f = f s := rfl

/-- One chunk of any length can be counted (R141). -/
theorem zero_add_bits_le_maxBits (len : Word) : (0 : DWord).toNat + 8 * len.toNat ≤ maxBits := by
  rw [show (0 : DWord).toNat = 0 from rfl, maxBits]
  omega

theorem State.authUpdate_ek (s : State) (c : Config) : (s.authUpdate c).m.ek = s.m.ek := by
  rw [State.authUpdate, absorbAll_eq]
  rfl

/-- A data-phase command after another command: its checks and its Effect read neither `ERR` nor `VERDICT`. -/
theorem State.finish_cryptCommand {s : State} {c : Config} (decrypt : Bool)
    (haccepted : s.m.phase = .enc ∧ s.m.eclosed = false) (hfits : s.dlen.toNat ≤ c.bufBytes)
    (husable : UsableInMgm s s.m.ek ∧ UsableInMgm s s.m.ak)
    (hcounts : s.m.pbits.toNat + 8 * s.dlen.toNat ≤ maxBits) :
    s.finish.command (s.finish.cryptChecks c) (fun s => s.crypt c decrypt) = .next (s.crypt c decrypt).finish :=
  State.chunkCommand_of_ready wrongPhaseOrClosed_eq_false dataTooBig_eq_false eitherUnusable_eq_false
    tooLong_eq_false ⟨haccepted, hfits, husable, hcounts⟩

theorem State.raise_withholdOutput (s : State) (e : ErrCode) :
    s.withholdOutput.raise e =
      { s.finish with
        dout := s.dout.writeBytes 0 (zeros s.dlen.toNat)
        tag := s.tag.writeBytes 0 (zeros 16)
        err := e } := rfl

section
variable {s : State} {c : Config} {ek ak : SlotId} {taglen : Nat} (h : PipelineReady c ek ak taglen s)
include h

/-! ### The streaming commands run the pipeline (R164)

No Effect reads `ERR` or `VERDICT`, so the ends of the commands between two Effects leave no trace. -/

theorem mgmaclean_of_pipelineReady : mgmacleanWith c ek ak s = .next (s.authClean c ek ak).finish := by
  rw [mgmacleanWith_eq, if_pos ⟨h.ek_usable, h.ak_usable⟩, if_pos h.ivlen_lt]

theorem mgmaupd_of_pipelineReady :
    mgmaupdWith c (s.authClean c ek ak).finish = .next ((s.authClean c ek ak).authUpdate c).finish := by
  have husable : UsableInMgm (s.authClean c ek ak).finish ak := usableInMgm_of_slot_eq (by simp) h.ak_usable
  exact State.chunkCommand_of_ready (effect := fun s => s.authUpdate c) wrongPhaseOrClosed_eq_false
    adTooBig_eq_false unusable_eq_false tooLong_eq_false
    ⟨⟨rfl, rfl⟩, h.alen_le, husable, zero_add_bits_le_maxBits s.alen⟩

theorem mgmeclean_of_pipelineReady :
    mgmecleanWith c ((s.authClean c ek ak).authUpdate c).finish = .next (s.dataPhase c ek ak).finish := by
  have hphase : ((s.authClean c ek ak).authUpdate c).m.phase = .auth := State.authUpdate_phase _ c
  have husable : UsableInMgm ((s.authClean c ek ak).authUpdate c).finish ek :=
    usableInMgm_of_slot_eq (by simp) h.ek_usable
  have hek : ((s.authClean c ek ak).authUpdate c).m.ek = ek := State.authUpdate_ek _ c
  rw [mgmecleanWith_eq, State.finish_m, if_pos hphase, hek, if_pos husable]
  rfl

theorem crypt_of_pipelineReady (decrypt : Bool) :
    (s.dataPhase c ek ak).finish.command ((s.dataPhase c ek ak).finish.cryptChecks c) (fun s => s.crypt c decrypt) =
      .next ((s.dataPhase c ek ak).crypt c decrypt).finish := by
  have hcounts : (s.dataPhase c ek ak).m.pbits.toNat + 8 * s.dlen.toNat ≤ maxBits := by
    rw [State.dataPhase_pbits h]
    exact zero_add_bits_le_maxBits s.dlen
  exact State.finish_cryptCommand decrypt ⟨State.dataPhase_phase h, State.dataPhase_eclosed h⟩ h.dlen_le
    (State.dataPhase_usable h) hcounts

theorem mgmfin_of_pipelineReady (decrypt : Bool) :
    mgmfinWith c taglen ((s.dataPhase c ek ak).crypt c decrypt).finish =
      .next (s.pipeline c ek ak taglen decrypt).finish := by
  have hphase : ((s.dataPhase c ek ak).crypt c decrypt).m.phase = .enc :=
    (State.cryptSession_phase _ c decrypt).trans (State.dataPhase_phase h)
  have husable : UsableInMgm ((s.dataPhase c ek ak).crypt c decrypt).finish ak :=
    usableInMgm_of_slot_eq (by simp) h.ak_usable
  rw [mgmfinWith_eq, State.finish_m, if_pos (.inr hphase), if_pos ⟨h.taglen_ge, h.taglen_le⟩, State.crypt_ak,
    State.dataPhase_ak h, if_pos husable]
  rfl

/-! ### `MGMENCALL` and `MGMDECALL` by their checks -/

theorem mgmencallWith_of_ready :
    mgmencallWith c ek ak taglen s = .next (s.pipeline c ek ak taglen false).finish :=
  State.command_of_pass _ (pipelineChecks_none.mpr h)

/-- The state an authentication failure leaves: that of the streaming commands with the output withheld (R162). -/
theorem State.withholdOutput_pipeline (hdout : s.dout.wf = true) (htag : s.tag.wf = true) :
    (s.pipeline c ek ak taglen true).withholdOutput.raise .authenticationFailed =
      { (s.pipeline c ek ak taglen true).finish with
        dout := s.dout.writeBytes 0 (zeros s.dlen.toNat)
        tag := s.tag.writeBytes 0 (zeros 16)
        err := .authenticationFailed } := by
  have houtput : (s.pipeline c ek ak taglen true).dout.writeBytes 0 (zeros s.dlen.toNat) =
      s.dout.writeBytes 0 (zeros s.dlen.toNat) := by
    rw [State.pipeline_dout, Memory.writeBytes_overwrite hdout]
    rw [State.length_cryptOutput, State.dataPhase_dlen, length_zeros]
  have htagOutput : (s.pipeline c ek ak taglen true).tag.writeBytes 0 (zeros 16) = s.tag.writeBytes 0 (zeros 16) := by
    rw [State.pipeline_tag h htag, Memory.writeBytes_overwrite htag]
    rw [length_truncatedTag h.taglen_le, length_zeros]
  rw [State.raise_withholdOutput, State.pipeline_dlen, houtput, htagOutput]

theorem mgmdecallWith_of_ready :
    mgmdecallWith c ek ak taglen s =
      .next
        (if ∀ i : Fin taglen, (s.pipeline c ek ak taglen true).tag.read i.val = s.tagin.read i.val then
          (s.pipeline c ek ak taglen true).finishVerified
         else (s.pipeline c ek ak taglen true).withholdOutput.raise .authenticationFailed) := by
  have hmatch := (s.pipeline c ek ak taglen true).tagDiff_eq_zero_iff taglen
  rw [State.pipeline_tagin] at hmatch
  rw [mgmdecallWith, pipelineChecks_none.mpr h]
  by_cases hdiff : (s.pipeline c ek ak taglen true).tagDiff taglen = 0
  · have hsame : ∀ i : Fin taglen, (s.pipeline c ek ak taglen true).tag.read i.val = s.tagin.read i.val :=
      fun i => hmatch.mp hdiff i.val i.isLt
    rw [if_pos hsame]
    exact if_pos hdiff
  · have hdiffer : ¬ ∀ i : Fin taglen, (s.pipeline c ek ak taglen true).tag.read i.val = s.tagin.read i.val :=
      fun hsame => hdiff (hmatch.mpr fun i hi => hsame ⟨i, hi⟩)
    rw [if_neg hdiffer]
    exact if_neg hdiff

end

theorem mgmencallWith_of_not_ready {s : State} {c : Config} {ek ak : SlotId} {taglen : Nat}
    (h : ¬ PipelineReady c ek ak taglen s) :
    mgmencallWith c ek ak taglen s = .next (s.raise (pipelineError s c ek ak taglen)) :=
  State.command_of_fail _ (firstFailing_pipelineChecks h)

theorem mgmdecallWith_of_not_ready {s : State} {c : Config} {ek ak : SlotId} {taglen : Nat}
    (h : ¬ PipelineReady c ek ak taglen s) :
    mgmdecallWith c ek ak taglen s = .next (s.raise (pipelineError s c ek ak taglen)) := by
  rw [mgmdecallWith, firstFailing_pipelineChecks h]

/-! ### The results -/

/-- Settles O54: the five Effects leave what the lemmas above say of `DOUT`, `TAG` and the session, or the first failing
check is raised. -/
theorem mgmencallResult : Obligations.MgmencallResult := by
  unfold Obligations.MgmencallResult
  intro ek ak taglen s hdout htag c encE encA iv y z qa qd zEnd lengths
  refine ⟨fun h => ?ready, mgmencallWith_of_not_ready⟩
  case ready =>
    have hrun : exec (.mgmencall ek ak taglen) s = .next (s.pipeline c ek ak taglen false).finish :=
      mgmencallWith_of_ready h
    rw [State.finish_pipeline, State.pipeline_m h hdout, State.pipeline_tag h htag] at hrun
    exact ⟨_, _, s.latchedIv, _, State.pipeline_dout_holds h hdout false, s.getElem_latchedIv,
      State.pipeline_sum h hdout false, Memory.holds_writeBytes_truncatedTag htag h.taglen_le _, hrun⟩

/-- Settles O56: the streaming commands run the pipeline's Effects one by one, the comparison of the tags decides how
`MGMDECALL` ends, and the zeros it then writes cover the output. -/
theorem mgmdecallResult : Obligations.MgmdecallResult := by
  unfold Obligations.MgmdecallResult
  refine fun ek ak taglen s hdout htag => ⟨fun h => ?ready, mgmdecallWith_of_not_ready⟩
  case ready =>
    have hclean : exec (.mgmaclean ek ak) s = _ := mgmaclean_of_pipelineReady h
    have hupdate : exec .mgmaupd _ = _ := mgmaupd_of_pipelineReady h
    have hencClean : exec .mgmeclean _ = _ := mgmeclean_of_pipelineReady h
    have hcrypt : exec .mgmdec _ = _ := crypt_of_pipelineReady h true
    have hfinish : exec (.mgmfin taglen) _ = _ := mgmfin_of_pipelineReady h true
    refine ⟨(s.pipeline Config.machine ek ak taglen true).finish, _, _, ?streamed, rfl,
      Memory.holds_writeBytes_zeros hdout s.dlen.toNat, Memory.holds_writeBytes_zeros htag 16,
      (mgmdecallWith_of_ready h).trans ?combined⟩
    case streamed =>
      rw [hclean, andThen_next, hupdate, andThen_next, hencClean, andThen_next, hcrypt, andThen_next, hfinish]
    case combined =>
      rw [State.withholdOutput_pipeline h hdout htag]
      rfl

end Sys2Proof.Machine
end

section
/-! The encoder is the inverse of the decoder (R70 to R74, R82): the fields read back from a word of format `C`, the word
put together again from its fields, both directions of the round trip, and the words of the assembler's statements. -/

namespace Sys2Proof

/-! ### The fields of a word of format `C` -/

@[simp] theorem SlotId.ofBit_bit (k : SlotId) : SlotId.ofBit k.bit = k := by
  cases k with
  | slot0 => rfl
  | slot1 => rfl

@[simp] theorem SlotId.ofBit_false : SlotId.ofBit false = .slot0 := rfl

@[simp] theorem SlotId.bit_ofBit (b : Bool) : (SlotId.ofBit b).bit = b := by
  cases b with
  | false => rfl
  | true => rfl

/-- The fields below `ARG` end before bit 16 (R71). -/
theorem wordOf_arg (op : Opcode) (f : Fields) : (wordOf op f).extractLsb' 16 5 = BitVec.ofNat 5 f.arg := by
  refine BitVec.eq_of_getLsbD_eq fun i hi => ?_
  have code : op.code.getLsbD (16 + i) = false := BitVec.getLsbD_of_ge _ _ (by omega)
  have flags : 16 + i - 8 ≠ 0 ∧ 16 + i - 9 ≠ 0 ∧ 16 + i - 10 ≠ 0 := by omega
  simp [wordOf, hi, code, flags, show 16 + i < 32 by omega]

/-- The fields of an assembled word are those it was assembled from. -/
theorem fieldsOf_wordOf (op : Opcode) {f : Fields} (h : f.arg < 32) : fieldsOf (wordOf op f) = f := by
  have ks : (wordOf op f).getLsbD 8 = f.ks.bit := by simp [wordOf]
  have ak : (wordOf op f).getLsbD 9 = f.ak.bit := by simp [wordOf]
  have flg : (wordOf op f).getLsbD 10 = f.flg := by simp [wordOf]
  have arg : (BitVec.ofNat 5 f.arg).toNat = f.arg := Nat.mod_eq_of_lt h
  rw [fieldsOf, ks, ak, flg, wordOf_arg, arg, SlotId.ofBit_bit, SlotId.ofBit_bit]

/-- The bits that format `C` gives to `KS`, `AK`, `FLG` and `ARG` (R71). -/
def fieldBits : Word := 0x001F0700

theorem fieldBits_getLsbD {i : Nat} (hi : i < 32) :
    fieldBits.getLsbD i = decide (i = 8 ∨ i = 9 ∨ i = 10 ∨ 16 ≤ i ∧ i ≤ 20) := by
  revert i
  decide

theorem Opcode.used_and_fieldBits (op : Opcode) : op.used &&& fieldBits = op.used := by
  cases op <;> rfl

/-- A word assembled from the fields of another has the other's field bits. -/
theorem wordOf_fieldsOf (op : Opcode) (w : Word) :
    wordOf op (fieldsOf w) = op.code.setWidth 32 ||| (w &&& fieldBits) := by
  have arg : BitVec.ofNat 5 (w.extractLsb' 16 5).toNat = w.extractLsb' 16 5 := by
    rw [BitVec.ofNat_toNat, BitVec.setWidth_eq]
  refine BitVec.eq_of_getLsbD_eq fun i hi => ?_
  simp only [wordOf, fieldsOf, SlotId.bit_ofBit, arg, BitVec.getLsbD_or, BitVec.getLsbD_and, fieldBits_getLsbD hi]
  interval_cases i <;> simp

/-! ### A command and its fields -/

theorem Instr.arg_lt_of_wf {i : Instr} (h : i.wf = true) : i.fields.arg < 32 := by
  cases i with
  | kcreate _ _ | mgmfin _ | mgmencall _ _ _ | mgmdecall _ _ _ => exact of_decide_eq_true h
  | _ => exact Nat.zero_lt_succ 31

theorem Instr.wf_of_arg_lt {i : Instr} (h : i.fields.arg < 32) : i.wf = true := by
  cases i with
  | kcreate _ _ | mgmfin _ | mgmencall _ _ _ | mgmdecall _ _ _ => exact decide_eq_true h
  | _ => rfl

@[simp] theorem Instr.build_fields (i : Instr) : i.opcode.build i.fields = i := by
  cases i <;> rfl

theorem fieldsOf_and (w u : Word) :
    fieldsOf (w &&& u) =
      { ks := SlotId.ofBit (w.getLsbD 8 && u.getLsbD 8)
        ak := SlotId.ofBit (w.getLsbD 9 && u.getLsbD 9)
        flg := w.getLsbD 10 && u.getLsbD 10
        arg := (w.extractLsb' 16 5 &&& u.extractLsb' 16 5).toNat } := by
  simp only [fieldsOf, BitVec.getLsbD_and, BitVec.extractLsb'_and]

/-- The operands that a command takes from a word are the word's fields, those it does not use at 0 (R71, R74). -/
theorem Opcode.fields_build (op : Opcode) (w : Word) : (op.build (fieldsOf w)).fields = fieldsOf (w &&& op.used) := by
  have allBits (x : BitVec 5) : x &&& 31#5 = x := BitVec.and_allOnes
  rw [fieldsOf_and]
  cases op <;> simp [Opcode.build, Instr.fields, fieldsOf, Opcode.used, allBits]

/-! ### The round trip -/

/-- The word of a well-formed command selects the command's row of the table (R74). -/
theorem encode_and_tableMask {i : Instr} (h : i.wf = true) : encode i &&& i.opcode.tableMask = i.opcode.tableMatch := by
  cases i with
  | kcreate k bs => exact Laws.EncodedBits.kcreate k bs h
  | kset k v => exact Laws.EncodedBits.kset k v h
  | ksetrnd k v => exact Laws.EncodedBits.ksetrnd k v h
  | ksetpwd k v => exact Laws.EncodedBits.ksetpwd k v h
  | kenc k => exact Laws.EncodedBits.kenc k h
  | kdec k => exact Laws.EncodedBits.kdec k h
  | kdestroy k => exact Laws.EncodedBits.kdestroy k h
  | ecbenc k => exact Laws.EncodedBits.ecbenc k h
  | ecbdec k => exact Laws.EncodedBits.ecbdec k h
  | ctr k first => exact Laws.EncodedBits.ctr k first h
  | acpkm k first => exact Laws.EncodedBits.acpkm k first h
  | omac k => exact Laws.EncodedBits.omac k h
  | mgmaclean ek ak => exact Laws.EncodedBits.mgmaclean ek ak h
  | mgmaupd => exact Laws.EncodedBits.mgmaupd h
  | mgmeclean => exact Laws.EncodedBits.mgmeclean h
  | mgmenc => exact Laws.EncodedBits.mgmenc h
  | mgmdec => exact Laws.EncodedBits.mgmdec h
  | mgmfin n => exact Laws.EncodedBits.mgmfin n h
  | mgmencall ek ak n => exact Laws.EncodedBits.mgmencall ek ak n h
  | mgmdecall ek ak n => exact Laws.EncodedBits.mgmdecall ek ak n h

theorem decode_encode {i : Instr} (h : i.wf = true) : decode (encode i) = some i := by
  obtain ⟨hopc, hres⟩ := opcode_and_reservedClear_iff.mpr (encode_and_tableMask h)
  refine decode_eq_some_iff.mpr ⟨hopc, hres, ?_⟩
  rw [encode, fieldsOf_wordOf i.opcode (Instr.arg_lt_of_wf h), Instr.build_fields]

/-- A word is its bits under a mask with those outside the mask. -/
theorem and_or_and_complement (w m : Word) : (w &&& (0xFFFFFFFF#32 ^^^ m)) ||| (w &&& m) = w := by
  have ones : 0xFFFFFFFF#32 = BitVec.allOnes 32 := rfl
  rw [ones, BitVec.allOnes_xor, ← BitVec.and_or_distrib_left, BitVec.or_comm, BitVec.or_not_self, BitVec.and_allOnes]

/-- The bits of a legal word are its `OPC` and the fields its command uses, all of which the command holds. -/
theorem encode_of_decode {w : Word} {i : Instr} (h : decode w = some i) : encode i = w := by
  obtain ⟨hopc, hres, hbuild⟩ := decode_eq_some_iff.mp h
  have row := opcode_and_reservedClear_iff.mp ⟨hopc, hres⟩
  have fields : i.fields = fieldsOf (w &&& i.opcode.used) := by rw [← i.opcode.fields_build, hbuild]
  calc encode i
    _ = i.opcode.code.setWidth 32 ||| (w &&& i.opcode.used &&& fieldBits) := by
      rw [encode, fields, wordOf_fieldsOf]
    _ = (w &&& (0xFFFFFFFF#32 ^^^ i.opcode.used)) ||| (w &&& i.opcode.used) := by
      rw [BitVec.and_assoc, Opcode.used_and_fieldBits, ← Opcode.tableMatch_eq, ← row, Opcode.tableMask_eq]
    _ = w := and_or_and_complement w i.opcode.used

theorem wf_of_decode {w : Word} {i : Instr} (h : decode w = some i) : i.wf = true := by
  obtain ⟨-, -, hbuild⟩ := decode_eq_some_iff.mp h
  refine Instr.wf_of_arg_lt ?_
  rw [← hbuild, Opcode.fields_build]
  exact BitVec.isLt _

end Sys2Proof

namespace Sys2Proof.Machine

open Sys2Proof

/-- Settles O5: the encoded word selects the command's row, and its fields are the command's. -/
theorem decodeOfEncode : Obligations.DecodeOfEncode := by
  unfold Obligations.DecodeOfEncode
  exact fun _ h => decode_encode h

/-- Settles O6: the command's operands are the used bits of the word, and the row fixes all others. -/
theorem encodeOfDecode : Obligations.EncodeOfDecode := by
  unfold Obligations.EncodeOfDecode
  exact fun _ _ h => ⟨wf_of_decode h, encode_of_decode h⟩

/-! ### The assembler's words -/

theorem slotBit_eq_true (k : SlotId) : k.bit = true ↔ k = .slot1 := by
  cases k with
  | slot0 => decide
  | slot1 => decide

theorem setWidth_ofBool (f : Bool) : (BitVec.ofBool f).setWidth 32 = if f then (1 : Word) else 0 := by
  cases f with
  | false => rfl
  | true => rfl

theorem setWidth_ofNat_5 {n : Nat} (h : n < 32) : (BitVec.ofNat 5 n).setWidth 32 = BitVec.ofNat 32 n := by
  refine BitVec.eq_of_toNat_eq ?_
  simp only [BitVec.toNat_setWidth, BitVec.toNat_ofNat]
  omega

/-- Settles O8: the fields a command does not use are 0 and drop out of its word. -/
theorem assemblerWords : Obligations.AssemblerWords := by
  unfold Obligations.AssemblerWords
  intro s ek ak f n hn bs slot flg
  simp only [encode, wordOf, Instr.opcode, Instr.fields, setWidth_ofBool, slotBit_eq_true, setWidth_ofNat_5 hn]
  simp [bs, slot, flg, Opcode.code]

/-- Settles O9: each word is decoded. -/
theorem sampleWordsDecode : Obligations.SampleWordsDecode := by
  unfold Obligations.SampleWordsDecode
  decide

end Sys2Proof.Machine
end

section
/-! What a command that ran has written, by kind of command (R21, R50, R66, R90, R202): which slot, session and output it
updates, and that every element it does not name stays. -/

namespace Sys2Proof.Machine

open Sys2Proof

/-! ### The Effects by kind of command -/

/-- The state after the Effect of `i` is `s` with these parts written: a slot, `DOUT` up to `DLEN`, `TAG`, the
session. -/
inductive Wrote (s : State) : Instr → State → Prop where
  /-- `KCREATE`, `KSET`, `KSETPWD` and `KDESTROY` write their slot. -/
  | slot {i : Instr} (hi : i.opcode ∈ [Opcode.kcreate, .kset, .ksetpwd, .kdestroy]) (k : SlotId) (sl : Slot) :
    Wrote s i (s.setSlot k sl)
  /-- `KSETRND` makes a draw and writes its slot. -/
  | drawnSlot (k : SlotId) (v : Bool) (sl : Slot) : Wrote s (.ksetrnd k v) (s.drawn.setSlot k sl)
  /-- A block transform writes `DOUT`. -/
  | blocks {i : Instr} (hi : i.opcode ∈ [Opcode.kenc, .kdec, .ecbenc, .ecbdec]) {b : List Byte}
    (hb : b.length = s.dlen.toNat) : Wrote s i (s.writeDout b)
  /-- A stream command writes its slot and `DOUT`. -/
  | stream {i : Instr} (hi : i.opcode ∈ [Opcode.ctr, .acpkm]) (k : SlotId) (sl : Slot) {b : List Byte}
    (hb : b.length = s.dlen.toNat) : Wrote s i ((s.setSlot k sl).writeDout b)
  /-- `OMAC` writes `TAG`. -/
  | tag (k : SlotId) (b : List Byte) : Wrote s (.omac k) (s.writeTag b)
  /-- `MGMAUPD` and `MGMECLEAN` write the session. -/
  | session {i : Instr} (hi : i.opcode ∈ [Opcode.mgmaupd, .mgmeclean]) (m : Session) : Wrote s i (s.setSession m)
  /-- `MGMACLEAN` and `MGMFIN` write the session and `TAG`. -/
  | sessionTag {i : Instr} (hi : i.opcode ∈ [Opcode.mgmaclean, .mgmfin]) (m : Session) (b : List Byte) :
    Wrote s i ((s.setSession m).writeTag b)
  /-- `MGMENC` and `MGMDEC` write the session and `DOUT`. -/
  | sessionData {i : Instr} (hi : i.opcode ∈ [Opcode.mgmenc, .mgmdec]) (m : Session) {b : List Byte}
    (hb : b.length = s.dlen.toNat) : Wrote s i ((s.setSession m).writeDout b)
  /-- A combined command writes the session, `DOUT`, and `TAG` twice: cleared when the session begins, and the tag. -/
  | combined {i : Instr} (hi : i.opcode ∈ [Opcode.mgmencall, .mgmdecall]) (m : Session) {b : List Byte}
    (hb : b.length = s.dlen.toNat) (b1 b2 : List Byte) :
    Wrote s i ((((s.setSession m).writeTag b1).writeDout b).writeTag b2)

theorem length_stream_dataBytes {c : Config} {u : Slot → Key × Slot} (hu : ∀ sl, (u sl).2.bs = sl.bs) (s : State)
    (sl : Slot) : (Machine.stream c u sl (Machine.blocks sl.bs s.dataBytes)).2.length = s.dlen.toNat := by
  rw [length_stream hu sl _ fun b => length_le_of_mem_blocks sl.bs_pos, sum_length_blocks sl.bs_pos,
    State.length_dataBytes]

theorem length_ecb_dataBytes {s : State} {sl : Slot} (h : s.dlen.toNat % sl.bs = 0) (f : Block → Block) :
    (ecb f sl.bs s.dataBytes).length = s.dlen.toNat := by
  rw [length_ecb sl.bs_pos f _ (by rwa [State.length_dataBytes]), State.length_dataBytes]

/-- The five Effects write three times to the session, and the last write covers the others. -/
theorem wrote_pipeline (s : State) (c : Config) (ek ak : SlotId) (taglen : Nat) (decrypt : Bool) {i : Instr}
    (hi : i.opcode ∈ [Opcode.mgmencall, .mgmdecall]) : Wrote s i (s.pipeline c ek ak taglen decrypt) := by
  have covered (m m' m'' : Session) (b1 b b2 : List Byte) :
      (((((s.setSession m).writeTag b1).setSession m').writeDout b).setSession m'').writeTag b2 =
        (((s.setSession m'').writeTag b1).writeDout b).writeTag b2 := rfl
  have hwrote := Wrote.combined (s := s) hi (s.pipeline c ek ak taglen decrypt).m
    (State.length_cryptOutput (s.dataPhase c ek ak) c decrypt) (zeros 16)
    (truncatedTag taglen (blockEnc c true ((s.dataPhase c ek ak).crypt c decrypt).authKey
      (s.pipeline c ek ak taglen decrypt).m.sum))
  rw [← covered (s.dataPhase c ek ak).m ((s.dataPhase c ek ak).cryptSession c decrypt)] at hwrote
  exact hwrote

/-- A command that ran wrote what its kind says, and ended with `ERR = 0`. -/
theorem Ran.wrote {c : Config} {i : Instr} {s t : State} (h : Ran c i s t) :
    ∃ x, Wrote s i x ∧
      (t = x.finish ∨ (∃ ek ak taglen, i = .mgmdecall ek ak taglen) ∧ t = x.finishVerified) := by
  cases i with
  | kcreate k bs => obtain ⟨_, rfl⟩ := h; exact ⟨_, .slot (by simp [Instr.opcode]) k _, .inl rfl⟩
  | kset k v => obtain ⟨_, rfl⟩ := h; exact ⟨_, .slot (by simp [Instr.opcode]) k _, .inl rfl⟩
  | ksetrnd k v => obtain ⟨_, r, _, rfl⟩ := h; exact ⟨_, .drawnSlot k v _, .inl rfl⟩
  | ksetpwd k v => obtain ⟨_, d, rfl⟩ := h; exact ⟨_, .slot (by simp [Instr.opcode]) k _, .inl rfl⟩
  | kenc k =>
    obtain ⟨_, hlen, rfl⟩ := h
    exact ⟨_, .blocks (by simp [Instr.opcode]) (by rw [length_bytesOf, hlen]), .inl rfl⟩
  | kdec k =>
    obtain ⟨_, hlen, rfl⟩ := h
    exact ⟨_, .blocks (by simp [Instr.opcode]) (by rw [length_bytesOf, hlen]), .inl rfl⟩
  | kdestroy k => obtain rfl := h; exact ⟨_, .slot (by simp [Instr.opcode]) k _, .inl rfl⟩
  | ecbenc k =>
    obtain ⟨_, _, hlen, rfl⟩ := h
    exact ⟨_, .blocks (by simp [Instr.opcode]) (length_ecb_dataBytes hlen _), .inl rfl⟩
  | ecbdec k =>
    obtain ⟨_, _, hlen, rfl⟩ := h
    exact ⟨_, .blocks (by simp [Instr.opcode]) (length_ecb_dataBytes hlen _), .inl rfl⟩
  | ctr k first =>
    obtain ⟨_, _, _, _, rfl⟩ := h
    exact ⟨_, .stream (by simp [Instr.opcode]) k _ (length_stream_dataBytes ctrUseKey_bs s _), .inl rfl⟩
  | acpkm k first =>
    obtain ⟨_, _, _, _, _, rfl⟩ := h
    exact ⟨_, .stream (by simp [Instr.opcode]) k _ (length_stream_dataBytes (acpkmUseKey_bs c) s _), .inl rfl⟩
  | omac k => obtain ⟨_, _, rfl⟩ := h; exact ⟨_, .tag k _, .inl rfl⟩
  | mgmaclean ek ak => obtain ⟨_, _, _, rfl⟩ := h; exact ⟨_, .sessionTag (by simp [Instr.opcode]) _ _, .inl rfl⟩
  | mgmaupd => obtain ⟨_, _, _, _, _, rfl⟩ := h; exact ⟨_, .session (by simp [Instr.opcode]) _, .inl rfl⟩
  | mgmeclean => obtain ⟨_, _, rfl⟩ := h; exact ⟨_, .session (by simp [Instr.opcode]) _, .inl rfl⟩
  | mgmenc =>
    obtain ⟨_, _, _, _, _, _, rfl⟩ := h
    exact ⟨_, .sessionData (by simp [Instr.opcode]) _ (s.length_cryptOutput c false), .inl rfl⟩
  | mgmdec =>
    obtain ⟨_, _, _, _, _, _, rfl⟩ := h
    exact ⟨_, .sessionData (by simp [Instr.opcode]) _ (s.length_cryptOutput c true), .inl rfl⟩
  | mgmfin taglen => obtain ⟨_, _, _, _, rfl⟩ := h; exact ⟨_, .sessionTag (by simp [Instr.opcode]) _ _, .inl rfl⟩
  | mgmencall ek ak taglen =>
    obtain ⟨_, rfl⟩ := h
    exact ⟨_, wrote_pipeline s c ek ak taglen false (by simp [Instr.opcode]), .inl rfl⟩
  | mgmdecall ek ak taglen =>
    obtain ⟨_, _, rfl⟩ := h
    exact ⟨_, wrote_pipeline s c ek ak taglen true (by simp [Instr.opcode]), .inr ⟨⟨ek, ak, taglen, rfl⟩, rfl⟩⟩

/-! ### What the Effects keep -/

namespace Wrote

section
variable {i : Instr} {s t : State} (h : Wrote s i t)
include h

/-- The operand registers, the input buffers and the host's side (R21, R66). -/
theorem inputs :
    t.alen = s.alen ∧ t.dlen = s.dlen ∧ t.klen = s.klen ∧ t.ivlen = s.ivlen ∧ t.secsz = s.secsz ∧ t.ivin = s.ivin ∧
      t.keyin = s.keyin ∧ t.tagin = s.tagin ∧ t.ain = s.ain ∧ t.din = s.din ∧ t.pending = s.pending ∧
      t.reply = s.reply := by
  cases h with | _ => simp

theorem tag_eq (hi : i.opcode ∉ [Opcode.omac, .mgmaclean, .mgmfin, .mgmencall, .mgmdecall]) : t.tag = s.tag := by
  cases h with
  | tag _ _ => exact absurd (List.mem_cons_self ..) hi
  | sessionTag hop _ _ => exact absurd ((by decide : [Opcode.mgmaclean, .mgmfin] ⊆ _) hop) hi
  | combined hop _ _ _ _ => exact absurd ((by decide : [Opcode.mgmencall, .mgmdecall] ⊆ _) hop) hi
  | _ => simp

theorem dout_eq
    (hi : i.opcode ∉ [Opcode.kenc, .kdec, .ecbenc, .ecbdec, .ctr, .acpkm, .mgmenc, .mgmdec, .mgmencall, .mgmdecall]) :
    t.dout = s.dout := by
  cases h with
  | blocks hop _ => exact absurd ((by decide : [Opcode.kenc, .kdec, .ecbenc, .ecbdec] ⊆ _) hop) hi
  | stream hop _ _ _ => exact absurd ((by decide : [Opcode.ctr, .acpkm] ⊆ _) hop) hi
  | sessionData hop _ _ => exact absurd ((by decide : [Opcode.mgmenc, .mgmdec] ⊆ _) hop) hi
  | combined hop _ _ _ _ => exact absurd ((by decide : [Opcode.mgmencall, .mgmdecall] ⊆ _) hop) hi
  | _ => simp

/-- Every output stands in `DOUT[0 .. DLEN-1]` (R50). -/
theorem dout_wf_and_read (hdout : s.dout.wf = true) :
    t.dout.wf = true ∧ ∀ a, s.dlen.toNat ≤ a → t.dout.read a = s.dout.read a := by
  have written {b : List Byte} (hb : b.length = s.dlen.toNat) :
      (s.dout.writeBytes 0 b).wf = true ∧
        ∀ a, s.dlen.toNat ≤ a → (s.dout.writeBytes 0 b).read a = s.dout.read a :=
    ⟨Memory.wf_writeBytes hdout 0 b, fun a ha => Memory.read_writeBytes_outside hdout (.inr (by omega))⟩
  cases h with
  | blocks _ hb | sessionData _ _ hb | combined _ _ hb _ _ => exact written hb
  | stream _ k sl hb => rw [State.writeDout_dout, State.setSlot_dout]; exact written hb
  | slot _ k sl => rw [State.setSlot_dout]; exact ⟨hdout, fun _ _ => rfl⟩
  | drawnSlot k _ sl => rw [State.setSlot_dout]; exact ⟨hdout, fun _ _ => rfl⟩
  | _ => exact ⟨hdout, fun _ _ => rfl⟩

theorem slot_eq (hi : i.opcode ∉ [Opcode.kcreate, .kset, .ksetrnd, .ksetpwd, .kdestroy, .ctr, .acpkm]) (k : SlotId) :
    t.slot k = s.slot k := by
  cases h with
  | slot hop _ _ => exact absurd ((by decide : [Opcode.kcreate, .kset, .ksetpwd, .kdestroy] ⊆ _) hop) hi
  | drawnSlot _ _ _ => exact absurd (by simp [Instr.opcode]) hi
  | stream hop _ _ _ => exact absurd ((by decide : [Opcode.ctr, .acpkm] ⊆ _) hop) hi
  | _ => simp

theorem m_eq
    (hi : i.opcode ∉ [Opcode.mgmaclean, .mgmaupd, .mgmeclean, .mgmenc, .mgmdec, .mgmfin, .mgmencall, .mgmdecall]) :
    t.m = s.m := by
  cases h with
  | session hop _ => exact absurd ((by decide : [Opcode.mgmaupd, .mgmeclean] ⊆ _) hop) hi
  | sessionTag hop _ _ => exact absurd ((by decide : [Opcode.mgmaclean, .mgmfin] ⊆ _) hop) hi
  | sessionData hop _ _ => exact absurd ((by decide : [Opcode.mgmenc, .mgmdec] ⊆ _) hop) hi
  | combined hop _ _ _ _ => exact absurd ((by decide : [Opcode.mgmencall, .mgmdecall] ⊆ _) hop) hi
  | _ => simp

end

end Wrote

/-! ### The outcome -/

/-- A command that ran sets `VERDICT` exactly when it is an `MGMDECALL` (R23). -/
theorem Ran.verdict_iff {c : Config} {i : Instr} {s t : State} (h : Ran c i s t) :
    t.verdict = true ↔ ∃ ek ak taglen, i = .mgmdecall ek ak taglen := by
  cases i with
  | mgmdecall ek ak taglen =>
    obtain ⟨_, _, rfl⟩ := h
    exact iff_of_true rfl ⟨ek, ak, taglen, rfl⟩
  | _ =>
    obtain ⟨x, _, rfl | ⟨⟨_, _, _, hi⟩, _⟩⟩ := h.wrote
    · exact iff_of_false nofun nofun
    · cases hi

/-- Every failure clears `VERDICT` (R172). -/
theorem Failed.verdict {c : Config} {i : Instr} {s t : State} (h : Failed c i s t) : t.verdict = false := by
  rcases h with ⟨e, _, _, _, rfl⟩ | ⟨k, v, e, _, _, rfl⟩ | ⟨ek, ak, taglen, _, _, _, rfl⟩
  · rfl
  · rfl
  · rfl

theorem Failed.err_ne_ok {c : Config} {i : Instr} {s t : State} (h : Failed c i s t) : t.err ≠ .ok :=
  fun hok => ok_notMem_possibleErrors i (hok ▸ h.err_mem)

/-- No command raises `AllocationFailure` (R179). -/
theorem allocationFailure_notMem_possibleErrors (i : Instr) : ErrCode.allocationFailure ∉ possibleErrors i := by
  cases i with | _ => simp [possibleErrors]

theorem exec_err_ne_allocationFailure {i : Instr} {s t : State} (h : exec i s = .next t) :
    t.err ≠ .allocationFailure := by
  intro herr
  rcases exec_cases h with hran | hfailed
  · exact absurd (hran.err_and_phase.1.symm.trans herr) nofun
  · exact allocationFailure_notMem_possibleErrors i (herr ▸ hfailed.err_mem)

/-- `VERDICT` is 1 only after a command that ended well with the session FINALIZED (R23, R162). -/
theorem exec_verdict {i : Instr} {s t : State} (h : exec i s = .next t) (hverdict : t.verdict = true) :
    t.err = .ok ∧ t.m.phase = .finalized := by
  rcases exec_cases h with hran | hfailed
  · obtain ⟨ek, ak, taglen, rfl⟩ := hran.verdict_iff.mp hverdict
    exact hran.err_and_phase
  · exact absurd (hfailed.verdict.symm.trans hverdict) nofun

end Sys2Proof.Machine
end

section
/-! Every step keeps the invariant (R23, R25 to R29, R31 to R34, R50, R179). The invariant is that of the contents (slots,
session, buffers) and that of the outcome; each named operation of the model has one rule for the contents, and the
commands are put together from them. -/

namespace Sys2Proof.Machine

open Sys2Proof

/-! ### The buffers under the named updates -/

@[simp] theorem State.raise_buf (s : State) (e : ErrCode) (sp : Space) : (s.raise e).buf sp = s.buf sp := by
  cases sp <;> rfl
@[simp] theorem State.finish_buf (s : State) (sp : Space) : s.finish.buf sp = s.buf sp := by
  cases sp <;> rfl
@[simp] theorem State.finishVerified_buf (s : State) (sp : Space) : s.finishVerified.buf sp = s.buf sp := by
  cases sp <;> rfl
@[simp] theorem State.drawn_buf (s : State) (sp : Space) : s.drawn.buf sp = s.buf sp := by
  cases sp <;> rfl
@[simp] theorem State.accept_buf (s : State) (rest : List Transaction) (sp : Space) :
    (s.accept rest).buf sp = s.buf sp := by
  cases sp <;> rfl
@[simp] theorem State.setSession_buf (s : State) (m : Session) (sp : Space) : (s.setSession m).buf sp = s.buf sp := by
  cases sp <;> rfl
@[simp] theorem State.setSlot_buf (s : State) (k : SlotId) (sl : Slot) (sp : Space) :
    (s.setSlot k sl).buf sp = s.buf sp := by
  cases k <;> cases sp <;> rfl
@[simp] theorem State.setBuf_slot (s : State) (sp : Space) (b : Memory) (k : SlotId) :
    (s.setBuf sp b).slot k = s.slot k := by
  cases sp <;> cases k <;> rfl

/-! ### Slots -/

theorem ctrAt_lt (bs : Nat) (ctr : Block) (j : Nat) : (ctrAt bs ctr j).toNat < 2 ^ (8 * bs) := by
  rw [ctrAt, BitVec.toNat_ofNat]
  exact lt_of_le_of_lt (Nat.mod_le _ _) (Nat.mod_lt _ (Nat.two_pow_pos _))

theorem Slot.inv_zeroized : Slot.zeroized.Inv := by
  constructor <;> decide

theorem Slot.inv_created (bs16 : Bool) : Slot.Inv { Slot.zeroized with st := .created, bs16 := bs16 } := by
  cases bs16 <;> constructor <;> decide

/-- Of a KEYED slot the invariant says only where its stream stands. -/
theorem Slot.inv_of_keyed {sl : Slot} (hst : sl.st = .keyed) (hctr : sl.ctr.toNat < 2 ^ (8 * sl.bs))
    (hle : sl.secpos.toNat ≤ sl.secsz.toNat) (hsecsz : sl.secsz.toNat % sl.bs = 0)
    (hsecpos : sl.secpos.toNat % sl.bs = 0) (hlive : sl.live = true → sl.kind = .acpkm → 0 < sl.secsz.toNat) :
    sl.Inv where
  unkeyed h := absurd hst h
  empty_bs16 h := absurd (hst.symm.trans h) nofun
  ctr_width := hctr
  secpos_le := hle
  secsz_blocks := hsecsz
  secpos_blocks := hsecpos
  live_acpkm := hlive

theorem Slot.inv_install (sl : Slot) (key : Key) : (sl.install key).Inv :=
  Slot.inv_of_keyed rfl (Nat.two_pow_pos _) le_rfl (Nat.zero_mod _) (Nat.zero_mod _) nofun

section
variable {sl : Slot} (h : sl.Inv) (hst : sl.st = .keyed)
include h hst

/-- Opening a plain CTR stream writes the counter and nothing of the section (R115). -/
theorem Slot.Inv.openCtr {iv : List Byte} (hiv : (ctrSeed sl.bs iv).toNat < 2 ^ (8 * sl.bs)) : (sl.openCtr iv).Inv :=
  Slot.inv_of_keyed hst hiv h.secpos_le h.secsz_blocks h.secpos_blocks nofun

/-- An open stream that has moved on: a counter of the block's width and a place in its section (R114, R117). -/
theorem Slot.Inv.advance {ctr : Block} {wkey : Key} {p : Word} (hctr : ctr.toNat < 2 ^ (8 * sl.bs))
    (hle : p.toNat ≤ sl.secsz.toNat) (hp : p.toNat % sl.bs = 0) :
    Slot.Inv { sl with ctr := ctr, wkey := wkey, secpos := p } :=
  Slot.inv_of_keyed hst hctr hle h.secsz_blocks hp h.live_acpkm

theorem Slot.Inv.closeStream (len : Nat) : (sl.closeStream len).Inv := by
  refine Slot.inv_of_keyed hst h.ctr_width h.secpos_le h.secsz_blocks h.secpos_blocks fun hlive => h.live_acpkm ?_
  simp only [Slot.closeStream, Bool.and_eq_true] at hlive
  exact hlive.1

/-- A plain CTR stream moves the counter only (R115). -/
theorem Slot.Inv.stream_ctr (c : Config) (bl : List (List Byte)) (len : Nat) :
    ((stream c ctrUseKey sl bl).1.closeStream len).Inv := by
  rw [stream_ctrUseKey c sl h.ctr_width]
  exact Slot.Inv.closeStream (h.advance hst (ctrAt_lt _ _ _) h.secpos_le h.secpos_blocks) hst len

/-- An ACPKM stream stays in its section (R117). -/
theorem Slot.Inv.stream_acpkm (c : Config) (hpos : 0 < sl.secsz.toNat) (bl : List (List Byte)) (len : Nat) :
    ((stream c (acpkmUseKey c) sl bl).1.closeStream len).Inv := by
  obtain ⟨p, -, hle, hp, hstream⟩ :=
    stream_acpkmUseKey c sl h.ctr_width h.secpos_le h.secsz_blocks h.secpos_blocks hpos bl
  rw [hstream]
  exact Slot.Inv.closeStream (h.advance hst (ctrAt_lt _ _ _) hle hp) hst len

end

/-- Opening an ACPKM stream starts a section of the latched size (R116). -/
theorem Slot.inv_openAcpkm {sl : Slot} (hst : sl.st = .keyed) {iv : List Byte}
    (hiv : (ctrSeed sl.bs iv).toNat < 2 ^ (8 * sl.bs)) {n : Word} (hn : n.toNat ≠ 0 ∧ n.toNat % sl.bs = 0) :
    (sl.openAcpkm iv n).Inv :=
  Slot.inv_of_keyed hst hiv (Nat.zero_le _) hn.2 (Nat.zero_mod _) fun _ _ => Nat.pos_of_ne_zero hn.1

/-! ### Counters -/

theorem toNat_countBits {n : DWord} {len : Nat} (h : n.toNat + 8 * len ≤ maxBits) :
    (countBits n len).toNat = n.toNat + 8 * len := by
  have hlt : n.toNat + 8 * len < 2 ^ 64 := lt_of_le_of_lt h (by decide)
  rw [countBits, BitVec.toNat_ofNat, Nat.mod_eq_of_lt hlt]

section
variable {n : DWord} {closed : Bool} {len : Nat} (hlong : n.toNat + 8 * len ≤ maxBits)
include hlong

theorem countBits_bytes (hn : n.toNat % 8 = 0) : (countBits n len).toNat % 8 = 0 := by
  rw [toNat_countBits hlong]
  omega

/-- Chunks of whole blocks leave a phase open, and a partial block closes it (R33). -/
theorem closed_iff_countBits (hopen : closed = false) (hn : closed = true ↔ n.toNat % 128 ≠ 0) :
    (closed || partialChunk 16 len) = true ↔ (countBits n len).toNat % 128 ≠ 0 := by
  have hblocks : n.toNat % 128 = 0 := by
    subst hopen
    simpa using hn
  rw [or_partialChunk_of_open hopen, toNat_countBits hlong, decide_eq_true_iff]
  omega

end

/-! ### Sessions -/

theorem Session.inv_cleared : Session.cleared.Inv := by
  constructor <;> decide

/-- A session outside CLEAN and AUTH: only its counters, flags and latched IV are bound. -/
theorem Session.inv_of_phase {m : Session} (hclean : m.phase ≠ .clean) (hauth : m.phase ≠ .auth)
    (hiv : m.ivlen.toNat < 16) (hzero : ∀ i : Fin 16, m.ivlen.toNat ≤ i.val → m.iv[i] = 0)
    (habits : m.abits.toNat % 8 = 0) (hpbits : m.pbits.toNat % 8 = 0)
    (haclosed : m.aclosed = true ↔ m.abits.toNat % 128 ≠ 0) (heclosed : m.eclosed = true ↔ m.pbits.toNat % 128 ≠ 0) :
    m.Inv where
  clean h := absurd h hclean
  auth h := absurd h hauth
  ivlen_lt := hiv
  iv_zero := hzero
  abits_bytes := habits
  pbits_bytes := hpbits
  aclosed_iff := haclosed
  eclosed_iff := heclosed

theorem State.inv_authClean {s : State} (c : Config) (ek ak : SlotId) (h : s.ivlen.toNat < 16) :
    (s.authClean c ek ak).m.Inv where
  clean := nofun
  auth _ := ⟨rfl, rfl⟩
  ivlen_lt := by
    show (s.ivlen.setWidth 5).toNat < 16
    rw [BitVec.toNat_setWidth]
    omega
  iv_zero i hi := by
    have hlen : (s.ivlen.setWidth 5).toNat = s.ivlen.toNat := by
      rw [BitVec.toNat_setWidth]
      omega
    exact (s.getElem_latchedIv i).trans (if_neg (Nat.not_lt.mpr (hlen ▸ hi)))
  abits_bytes := rfl
  pbits_bytes := rfl
  aclosed_iff := show false = true ↔ (0 : DWord).toNat % 128 ≠ 0 by decide
  eclosed_iff := show false = true ↔ (0 : DWord).toNat % 128 ≠ 0 by decide

section
variable {s : State} (h : s.m.Inv)
include h

theorem State.inv_authUpdate (c : Config) (hphase : s.m.phase = .auth) (hopen : s.m.aclosed = false)
    (hlong : s.m.abits.toNat + 8 * s.alen.toNat ≤ maxBits) : (s.authUpdate c).m.Inv := by
  rw [State.authUpdate, absorbAll_eq]
  exact
    { clean := fun hclean => absurd (hphase.symm.trans hclean) nofun
      auth := h.auth
      ivlen_lt := h.ivlen_lt
      iv_zero := h.iv_zero
      abits_bytes := countBits_bytes hlong h.abits_bytes
      pbits_bytes := h.pbits_bytes
      aclosed_iff := closed_iff_countBits hlong hopen h.aclosed_iff
      eclosed_iff := h.eclosed_iff }

theorem State.inv_encClean (c : Config) : (s.encClean c).m.Inv :=
  Session.inv_of_phase nofun nofun h.ivlen_lt h.iv_zero h.abits_bytes rfl h.aclosed_iff
    (show false = true ↔ (0 : DWord).toNat % 128 ≠ 0 by decide)

theorem State.inv_cryptSession (c : Config) (decrypt : Bool) (hphase : s.m.phase = .enc)
    (hopen : s.m.eclosed = false) (hlong : s.m.pbits.toNat + 8 * s.dlen.toNat ≤ maxBits) :
    (s.cryptSession c decrypt).Inv := by
  rw [State.cryptSession, Machine.crypt_eq]
  exact Session.inv_of_phase (fun hclean => absurd (hphase.symm.trans hclean) nofun)
    (fun hauth => absurd (hphase.symm.trans hauth) nofun) h.ivlen_lt h.iv_zero h.abits_bytes
    (countBits_bytes hlong h.pbits_bytes) h.aclosed_iff (closed_iff_countBits hlong hopen h.eclosed_iff)

theorem State.inv_authFinish (c : Config) (taglen : Nat) : (s.authFinish c taglen).m.Inv :=
  Session.inv_of_phase nofun nofun h.ivlen_lt h.iv_zero h.abits_bytes h.pbits_bytes h.aclosed_iff h.eclosed_iff

end

/-! ### The contents of a state -/

/-- What the invariant says of slots, session and buffers. -/
structure State.ContentInv (c : Config) (s : State) : Prop where
  slots : ∀ k, (s.slot k).Inv
  session : s.m.Inv
  canonical : ∀ sp, (s.buf sp).wf = true
  inside : ∀ sp : Space, (s.buf sp).within (sp.size c) = true

/-- What the invariant says of `ERR` and `VERDICT` (R23, R179). -/
def State.OutcomeInv (s : State) : Prop :=
  (s.verdict = true → s.err = .ok ∧ s.m.phase = .finalized) ∧ s.err ≠ .allocationFailure

theorem State.inv_iff {c : Config} {s : State} : s.Inv c ↔ s.ContentInv c ∧ s.OutcomeInv :=
  ⟨fun h => ⟨⟨h.slots, h.session, h.canonical, h.inside⟩, h.verdict, h.err⟩,
   fun ⟨h, hverdict, herr⟩ => ⟨h.slots, h.session, h.canonical, h.inside, hverdict, herr⟩⟩

theorem State.contentInv_reset (c : Config) : State.reset.ContentInv c where
  slots k := by rw [State.reset_slot]; exact Slot.inv_zeroized
  session := Session.inv_cleared
  canonical sp := by rw [State.reset_buf]; rfl
  inside sp := by rw [State.reset_buf]; rfl

namespace State.ContentInv

section
variable {c : Config} {s t : State} (h : s.ContentInv c)
include h

theorem congr (hslot : ∀ k, t.slot k = s.slot k) (hm : t.m = s.m) (hbuf : ∀ sp, t.buf sp = s.buf sp) :
    t.ContentInv c where
  slots k := by rw [hslot]; exact h.slots k
  session := by rw [hm]; exact h.session
  canonical sp := by rw [hbuf]; exact h.canonical sp
  inside sp := by rw [hbuf]; exact h.inside sp

theorem raise (e : ErrCode) : (s.raise e).ContentInv c :=
  h.congr (s.raise_slot e) rfl (s.raise_buf e)

theorem finish : s.finish.ContentInv c :=
  h.congr (s.finish_slot) rfl (s.finish_buf)

theorem finishVerified : s.finishVerified.ContentInv c :=
  h.congr (s.finishVerified_slot) rfl (s.finishVerified_buf)

theorem drawn : s.drawn.ContentInv c :=
  h.congr (s.drawn_slot) rfl (s.drawn_buf)

theorem accept (rest : List Transaction) : (s.accept rest).ContentInv c :=
  h.congr (s.accept_slot rest) rfl (s.accept_buf rest)

theorem setSlot (k : SlotId) {sl : Slot} (hsl : sl.Inv) : (s.setSlot k sl).ContentInv c where
  slots k' := by
    by_cases hk : k' = k
    · rw [hk, State.slot_setSlot]; exact hsl
    · rw [State.slot_setSlot_of_ne s sl hk]; exact h.slots k'
  session := by rw [State.setSlot_m]; exact h.session
  canonical sp := by rw [State.setSlot_buf]; exact h.canonical sp
  inside sp := by rw [State.setSlot_buf]; exact h.inside sp

theorem install (k : SlotId) (key : Key) : (s.install k key).ContentInv c :=
  h.setSlot k (Slot.inv_install _ key)

theorem setSession {m : Session} (hm : m.Inv) : (s.setSession m).ContentInv c where
  slots k := by rw [State.setSession_slot]; exact h.slots k
  session := hm
  canonical sp := by rw [State.setSession_buf]; exact h.canonical sp
  inside sp := by rw [State.setSession_buf]; exact h.inside sp

/-- A write inside a buffer (R50). -/
theorem writeBytes (sp : Space) {off : Nat} {b : List Byte} (hb : off + b.length ≤ sp.size c) :
    (s.setBuf sp ((s.buf sp).writeBytes off b)).ContentInv c where
  slots k := by rw [State.setBuf_slot]; exact h.slots k
  session := by rw [State.setBuf_m]; exact h.session
  canonical sp' := by
    by_cases hsp : sp' = sp
    · rw [hsp, State.buf_setBuf]; exact Memory.wf_writeBytes (h.canonical sp) off b
    · rw [State.buf_setBuf_of_ne s _ hsp]; exact h.canonical sp'
  inside sp' := by
    by_cases hsp : sp' = sp
    · rw [hsp, State.buf_setBuf]; exact Memory.within_writeBytes (h.inside sp) hb
    · rw [State.buf_setBuf_of_ne s _ hsp]; exact h.inside sp'

theorem writeDout {b : List Byte} (hb : b.length ≤ c.bufBytes) : (s.writeDout b).ContentInv c :=
  h.writeBytes .dout (off := 0) ((Nat.zero_add _).trans_le hb)

theorem writeTag {b : List Byte} (hb : b.length = 16) : (s.writeTag b).ContentInv c :=
  h.writeBytes .tag (off := 0) ((Nat.zero_add _).trans_le hb.le)

/-! ### Effects -/

theorem runStream (k : SlotId) {sl : Slot} {u : Slot → Key × Slot} (hu : ∀ sl, (u sl).2.bs = sl.bs)
    (hsl : ((stream c u sl (blocks sl.bs s.dataBytes)).1.closeStream s.dlen.toNat).Inv)
    (hfits : s.dlen.toNat ≤ c.bufBytes) : (s.runStream c u k sl).ContentInv c := by
  rw [State.runStream_eq]
  exact (h.setSlot k hsl).writeDout ((length_stream_dataBytes hu s sl).trans_le hfits)

theorem authClean (ek ak : SlotId) (hiv : s.ivlen.toNat < 16) : (s.authClean c ek ak).ContentInv c :=
  (h.setSession (State.inv_authClean c ek ak hiv)).writeTag (length_zeros 16)

theorem authUpdate (hphase : s.m.phase = .auth) (hopen : s.m.aclosed = false)
    (hlong : s.m.abits.toNat + 8 * s.alen.toNat ≤ maxBits) : (s.authUpdate c).ContentInv c :=
  h.setSession (State.inv_authUpdate h.session c hphase hopen hlong)

theorem encClean : (s.encClean c).ContentInv c :=
  h.setSession (State.inv_encClean h.session c)

theorem crypt (decrypt : Bool) (hphase : s.m.phase = .enc) (hopen : s.m.eclosed = false)
    (hfits : s.dlen.toNat ≤ c.bufBytes) (hlong : s.m.pbits.toNat + 8 * s.dlen.toNat ≤ maxBits) :
    (s.crypt c decrypt).ContentInv c :=
  (h.setSession (State.inv_cryptSession h.session c decrypt hphase hopen hlong)).writeDout
    ((s.length_cryptOutput c decrypt).trans_le hfits)

theorem authFinish {taglen : Nat} (htaglen : taglen ≤ 16) : (s.authFinish c taglen).ContentInv c :=
  (h.setSession (State.inv_authFinish h.session c taglen)).writeTag (length_truncatedTag htaglen _)

/-- The five Effects in order (R160). -/
theorem pipeline {ek ak : SlotId} {taglen : Nat} (hready : PipelineReady c ek ak taglen s) (decrypt : Bool) :
    (s.pipeline c ek ak taglen decrypt).ContentInv c := by
  have hclean := h.authClean ek ak hready.ivlen_lt
  have hupdate := hclean.authUpdate rfl rfl (zero_add_bits_le_maxBits s.alen)
  have hdata : (s.dataPhase c ek ak).ContentInv c := hupdate.encClean
  have hlong : (s.dataPhase c ek ak).m.pbits.toNat + 8 * s.dlen.toNat ≤ maxBits := by
    rw [State.dataPhase_pbits hready]
    exact zero_add_bits_le_maxBits s.dlen
  have hcrypt := hdata.crypt decrypt (State.dataPhase_phase hready) (State.dataPhase_eclosed hready) hready.dlen_le hlong
  exact hcrypt.authFinish hready.taglen_le

theorem withholdOutput (hfits : s.dlen.toNat ≤ c.bufBytes) : s.withholdOutput.ContentInv c :=
  (h.writeDout ((length_zeros _).trans_le hfits)).writeTag (length_zeros 16)

end

end State.ContentInv

/-! ### Commands -/

theorem bs_le_bufBytes (c : Config) (sl : Slot) : sl.bs ≤ c.bufBytes :=
  sl.bs_le.trans ((by decide : 16 ≤ 64).trans (bufBytes_bounds c).1)

/-- The initial counter of a stream has the width of the block (R113). -/
theorem ctrSeed_ivBytes_lt (s : State) (sl : Slot) :
    (ctrSeed sl.bs (s.ivBytes (sl.bs / 2))).toNat < 2 ^ (8 * sl.bs) := by
  rw [ctrSeed_ivBytes]
  exact ivCounter_lt s sl

theorem Ran.contentInv {c : Config} {i : Instr} {s t : State} (h : s.ContentInv c) (hran : Ran c i s t) :
    t.ContentInv c := by
  cases i with
  | kcreate k bs => obtain ⟨_, rfl⟩ := hran; exact (h.setSlot k (Slot.inv_created _)).finish
  | kset k v => obtain ⟨_, rfl⟩ := hran; exact (h.install k _).finish
  | ksetrnd k v => obtain ⟨_, r, _, rfl⟩ := hran; exact (h.drawn.install k r).finish
  | ksetpwd k v => obtain ⟨_, d, rfl⟩ := hran; exact (h.install k d).finish
  | kenc k =>
    obtain ⟨_, _, rfl⟩ := hran
    exact (h.writeDout ((length_bytesOf _ _).trans_le (bs_le_bufBytes c _))).finish
  | kdec k =>
    obtain ⟨_, _, rfl⟩ := hran
    exact (h.writeDout ((length_bytesOf _ _).trans_le (bs_le_bufBytes c _))).finish
  | kdestroy k => obtain rfl := hran; exact (h.setSlot k Slot.inv_zeroized).finish
  | ecbenc k =>
    obtain ⟨_, hfits, hlen, rfl⟩ := hran
    exact (h.writeDout ((length_ecb_dataBytes hlen _).trans_le hfits)).finish
  | ecbdec k =>
    obtain ⟨_, hfits, hlen, rfl⟩ := hran
    exact (h.writeDout ((length_ecb_dataBytes hlen _).trans_le hfits)).finish
  | ctr k first =>
    obtain ⟨_, hst, hfits, _, rfl⟩ := hran
    cases first with
    | true =>
      have hopened := (h.slots k).openCtr hst (ctrSeed_ivBytes_lt s _)
      exact (h.runStream k ctrUseKey_bs (hopened.stream_ctr hst c _ _) hfits).finish
    | false => exact (h.runStream k ctrUseKey_bs ((h.slots k).stream_ctr hst c _ _) hfits).finish
  | acpkm k first =>
    obtain ⟨hopen, hst, hfits, hsection, _, rfl⟩ := hran
    cases first with
    | true =>
      have hopened := Slot.inv_openAcpkm hst (ctrSeed_ivBytes_lt s _) (hsection rfl)
      exact (h.runStream k (acpkmUseKey_bs c)
        (hopened.stream_acpkm hst c (Nat.pos_of_ne_zero (hsection rfl).1) _ _) hfits).finish
    | false =>
      obtain ⟨hlive, hkind⟩ := hopen.resolve_left Bool.false_ne_true
      exact (h.runStream k (acpkmUseKey_bs c)
        ((h.slots k).stream_acpkm hst c ((h.slots k).live_acpkm hlive hkind) _ _) hfits).finish
  | omac k =>
    obtain ⟨_, _, rfl⟩ := hran
    have hle := (s.slot k).bs_le
    exact (h.writeTag (by rw [List.length_append, length_bytesOf, length_zeros]; omega)).finish
  | mgmaclean ek ak => obtain ⟨_, _, hiv, rfl⟩ := hran; exact (h.authClean ek ak hiv).finish
  | mgmaupd =>
    obtain ⟨hphase, hopen, _, _, hlong, rfl⟩ := hran
    exact (h.authUpdate hphase hopen hlong).finish
  | mgmeclean => obtain ⟨_, _, rfl⟩ := hran; exact h.encClean.finish
  | mgmenc =>
    obtain ⟨hphase, hopen, hfits, _, _, hlong, rfl⟩ := hran
    exact (h.crypt false hphase hopen hfits hlong).finish
  | mgmdec =>
    obtain ⟨hphase, hopen, hfits, _, _, hlong, rfl⟩ := hran
    exact (h.crypt true hphase hopen hfits hlong).finish
  | mgmfin taglen => obtain ⟨_, _, htaglen, _, rfl⟩ := hran; exact (h.authFinish htaglen).finish
  | mgmencall ek ak taglen => obtain ⟨hready, rfl⟩ := hran; exact (h.pipeline hready false).finish
  | mgmdecall ek ak taglen => obtain ⟨hready, _, rfl⟩ := hran; exact (h.pipeline hready true).finishVerified

theorem Failed.contentInv {c : Config} {i : Instr} {s t : State} (h : s.ContentInv c) (hfailed : Failed c i s t) :
    t.ContentInv c := by
  rcases hfailed with ⟨e, _, _, _, rfl⟩ | ⟨k, v, e, _, _, rfl⟩ | ⟨ek, ak, taglen, _, hready, _, rfl⟩
  · exact h.raise e
  · exact h.drawn.raise e
  · exact ((h.pipeline hready true).withholdOutput (by rw [State.pipeline_dlen]; exact hready.dlen_le)).raise _

theorem exec_inv {i : Instr} {s t : State} (h : s.ContentInv Config.machine) (hexec : exec i s = .next t) :
    t.Inv Config.machine := by
  refine State.inv_iff.mpr ⟨?contents, exec_verdict hexec, exec_err_ne_allocationFailure hexec⟩
  case contents =>
    rcases exec_cases hexec with hran | hfailed
    · exact hran.contentInv h
    · exact hfailed.contentInv h

/-- An illegal word is a command that fails (R75). -/
theorem runWord_inv {w : Word} {s t : State} (h : s.ContentInv Config.machine) (hrun : runWord exec w s = .next t) :
    t.Inv Config.machine := by
  cases hw : decode w with
  | none =>
    rw [runWord_of_illegal hw] at hrun
    obtain rfl := Host.Outcome.next.inj hrun
    exact State.inv_iff.mpr ⟨h.raise _, nofun, nofun⟩
  | some i =>
    simp only [runWord, hw] at hrun
    exact exec_inv h hrun

/-! ### The other transactions -/

/-- A buffer request that is accepted lies inside its buffer (R65). -/
theorem spaceRequest_ok {c : Config} {n off k : Nat} {q : Space → Request} {r : Request}
    (h : spaceRequest c n off k q = .ok r) : ∃ sp : Space, off + k ≤ sp.size c ∧ r = q sp := by
  have hin := (spaceRequest_error_iff (c := c) (n := n) (off := off) (k := k) (q := q)).not.mp
    (by rw [h]; nofun)
  push Not at hin
  obtain ⟨sp, size, hmem, hk, hsize⟩ := hin
  rw [spaceRequest_inside hmem (Nat.pos_of_ne_zero hk) hsize] at h
  obtain ⟨-, rfl⟩ := of_mem_bufferTable hmem
  exact ⟨sp, hsize, (Except.ok.inj h).symm⟩

theorem writeRequest_ne_writeSpace {n : Nat} {v : DWord} {sp : Space} {off : Nat} {b : List Byte} :
    writeRequest n v ≠ .ok (.writeSpace sp off b) := by
  unfold writeRequest
  split
  · nofun
  · split
    · nofun
    · split <;> nofun

theorem request_writeSpace {c : Config} {tr : Transaction} {sp : Space} {off : Nat} {b : List Byte}
    (h : request c tr = .ok (.writeSpace sp off b)) : off + b.length ≤ sp.size c := by
  cases tr with
  | wr n v => exact absurd h writeRequest_ne_writeSpace
  | rd n =>
    cases hn : Reg.ofNumber n with
    | none => simp only [request, hn, reduceCtorEq] at h
    | some r => simp only [request, hn, Except.ok.injEq, reduceCtorEq] at h
  | wrb n off' b' =>
    obtain ⟨sp', hsize, hq⟩ := spaceRequest_ok h
    cases hq
    exact hsize
  | rdb n off' k =>
    obtain ⟨sp', _, hq⟩ := spaceRequest_ok h
    cases hq
  | reset => cases h

section
variable {c : Config} {s : State}

theorem State.ContentInv.writeReg (h : s.ContentInv c) (r : Reg) (v : DWord) : (s.writeReg r v).ContentInv c :=
  h.congr (fun k => by cases r <;> cases k <;> rfl) (by cases r <;> rfl) (fun sp => by cases r <;> cases sp <;> rfl)

theorem State.ContentInv.reply (h : s.ContentInv c) (r : Reply) :
    State.ContentInv c { s with reply := some r } :=
  h.congr (fun k => by cases k <;> rfl) rfl (fun sp => by cases sp <;> rfl)

theorem State.ContentInv.writeSpace (h : s.ContentInv c) {sp : Space} {off : Nat} {b : List Byte}
    (hb : off + b.length ≤ sp.size c) : (s.writeSpace sp off b).ContentInv c := by
  unfold State.writeSpace
  split
  · exact h.writeBytes sp hb
  · exact h

theorem State.contentInv_resetInput (s : State) : s.resetInput.ContentInv c :=
  (State.contentInv_reset c).congr (fun k => by cases k <;> rfl) rfl (fun sp => by cases sp <;> rfl)

end

theorem State.outcomeInv_congr {s t : State} (h : s.OutcomeInv) (hverdict : t.verdict = s.verdict)
    (herr : t.err = s.err) (hm : t.m = s.m) : t.OutcomeInv := by
  rw [State.OutcomeInv, hverdict, herr, hm]
  exact h

/-- A request other than a command writes no outcome, but for the reset. -/
theorem serve_inv {tr : Transaction} {q : Request} (hq : request Config.machine tr = .ok q) {s : State}
    (h : s.Inv Config.machine) : (s.serve q).Inv Config.machine := by
  obtain ⟨hcontent, houtcome⟩ := State.inv_iff.mp h
  cases q with
  | command w => exact h
  | writeReg r v =>
    exact State.inv_iff.mpr ⟨hcontent.writeReg r v,
      State.outcomeInv_congr houtcome (by cases r <;> rfl) (by cases r <;> rfl) (by cases r <;> rfl)⟩
  | readReg r => exact State.inv_iff.mpr ⟨hcontent.reply _, houtcome⟩
  | writeSpace sp off b =>
    refine State.inv_iff.mpr ⟨hcontent.writeSpace (request_writeSpace hq), ?outcome⟩
    case outcome =>
      rw [State.serve, State.writeSpace]
      split
      · exact State.outcomeInv_congr houtcome (by simp) (by simp) (by simp)
      · exact houtcome
  | readSpace sp off k => exact State.inv_iff.mpr ⟨hcontent.reply _, houtcome⟩
  | reset => exact State.inv_iff.mpr ⟨State.contentInv_resetInput s, nofun, nofun⟩

theorem accept_inv {s : State} (h : s.Inv Config.machine) (rest : List Transaction) :
    (s.accept rest).Inv Config.machine := by
  obtain ⟨hcontent, houtcome⟩ := State.inv_iff.mp h
  exact State.inv_iff.mpr ⟨hcontent.accept rest, houtcome⟩

/-! ### The obligations -/

/-- Settles O3: the zeroized slots, the cleared session and empty listings meet it. -/
theorem resetMeetsInvariant : Obligations.ResetMeetsInvariant := by
  unfold Obligations.ResetMeetsInvariant
  exact State.inv_iff.mpr ⟨State.contentInv_reset _, nofun, nofun⟩

/-- Settles O4: a step waits, runs a command, or serves another request, and each keeps the invariant. -/
theorem stepKeepsInvariant : Obligations.StepKeepsInvariant := by
  unfold Obligations.StepKeepsInvariant
  intro s t h hstep
  rcases step_cases hstep with ⟨_, rfl⟩ | ⟨_, rest, w, _, _, hrun⟩ | ⟨_, rest, q, _, hq, _, rfl⟩
  · exact h
  · exact runWord_inv (State.inv_iff.mp (accept_inv h rest)).1 hrun
  · exact serve_inv hq (accept_inv h rest)

end Sys2Proof.Machine
end

section
/-! What every command leaves and what it keeps (R33, R50, R66, R90, R141, R171, R172, R202): the error codes, failed
commands, the verdict, the frame over registers and buffers, the slots, and the length counters. -/

namespace Sys2Proof.Machine

open Sys2Proof

/-! ### Error codes and failed commands -/

/-- Settles O17: a command that ran ends with OK, and one that failed with a code of its row. -/
theorem errorCodesPerCommand : Obligations.ErrorCodesPerCommand := by
  unfold Obligations.ErrorCodesPerCommand
  intro i s
  obtain ⟨t, ht⟩ := exec_next i s
  refine ⟨t, ht, ?code, exec_err_ne_allocationFailure ht⟩
  case code => exact (exec_cases ht).imp (fun hran => hran.err_and_phase.1) Failed.err_mem

/-- A failure that is not the mismatch of a tag writes the outcome, and counts the draw if one was made (R172). -/
theorem Failed.eq_of_ne_authenticationFailed {c : Config} {i : Instr} {s t : State} (h : Failed c i s t)
    (hne : t.err ≠ .authenticationFailed) :
    t =
      { s with
        err := t.err
        verdict := false
        draws := if i.opcode = .ksetrnd ∧ t.err ≠ .invalidParameter then s.draws + 1 else s.draws } := by
  rcases h with ⟨e, _, _, hdraw, rfl⟩ | ⟨k, v, e, rfl, he, rfl⟩ | ⟨ek, ak, taglen, rfl, _, _, rfl⟩
  · have nodraw : ¬ (i.opcode = .ksetrnd ∧ e ≠ .invalidParameter) := fun ⟨hop, herr⟩ => herr (hdraw hop)
    rw [State.raise_err, if_neg nodraw]
    rfl
  · have drawn : (Instr.ksetrnd k v).opcode = .ksetrnd ∧ e ≠ .invalidParameter :=
      ⟨rfl, by rcases he with rfl | rfl <;> decide⟩
    rw [State.raise_err, if_pos drawn]
    rfl
  · exact absurd rfl hne

/-- Settles O18: a command that did not end with OK failed. -/
theorem failedCommandChangesOnlyTheOutcome : Obligations.FailedCommandChangesOnlyTheOutcome := by
  unfold Obligations.FailedCommandChangesOnlyTheOutcome
  intro i s t h hok hauth
  rcases exec_cases h with hran | hfailed
  · exact absurd hran.err_and_phase.1 hok
  · exact hfailed.eq_of_ne_authenticationFailed hauth

/-! ### The verdict -/

theorem exec_verdict_iff {i : Instr} {s t : State} (h : exec i s = .next t) :
    t.verdict = true ↔ t.err = .ok ∧ ∃ ek ak taglen, i = .mgmdecall ek ak taglen := by
  rcases exec_cases h with hran | hfailed
  · rw [hran.verdict_iff, hran.err_and_phase.1]
    exact (and_iff_right rfl).symm
  · exact iff_of_false (by rw [hfailed.verdict]; nofun) fun hok => hfailed.err_ne_ok hok.1

/-- The tag was compared and was found equal (R162, R163). -/
theorem mgmdecall_verified {ek ak : SlotId} {taglen : Nat} {s t : State}
    (h : exec (.mgmdecall ek ak taglen) s = .next t) (hverdict : t.verdict = true) :
    4 ≤ taglen ∧ taglen ≤ 16 ∧ ∀ a, a < taglen → t.tag.read a = s.tagin.read a := by
  rcases exec_cases h with ⟨hready, hdiff, rfl⟩ | hfailed
  · have hsame := (State.tagDiff_eq_zero_iff _ taglen).mp hdiff
    rw [State.pipeline_tagin] at hsame
    exact ⟨hready.taglen_ge, hready.taglen_le, hsame⟩
  · exact absurd (hfailed.verdict.symm.trans hverdict) nofun

theorem exec_authenticationFailed {i : Instr} {s t : State} (h : exec i s = .next t)
    (herr : t.err = .authenticationFailed) : ∃ ek ak taglen, i = .mgmdecall ek ak taglen := by
  rcases exec_cases h with hran | ⟨e, _, hne, _, rfl⟩ | ⟨k, v, e, _, he, rfl⟩ | ⟨ek, ak, taglen, rfl, _⟩
  · exact absurd (hran.err_and_phase.1.symm.trans herr) nofun
  · exact absurd herr hne
  · rcases he with rfl | rfl <;> cases herr
  · exact ⟨ek, ak, taglen, rfl⟩

/-- Settles O19: from the three lemmas above. -/
theorem verdictOnlyAfterMatchingTag : Obligations.VerdictOnlyAfterMatchingTag := by
  unfold Obligations.VerdictOnlyAfterMatchingTag
  intro i s t h
  refine ⟨exec_verdict_iff h, fun ek ak taglen hi hverdict => ?compared, exec_authenticationFailed h⟩
  case compared =>
    subst hi
    exact mgmdecall_verified h hverdict

/-! ### Registers and buffers -/

/-- The mismatch of a tag writes zeros over the output and over `TAG` (R162). -/
theorem withheld_dout {s : State} {c : Config} {ek ak : SlotId} {taglen : Nat} (hdout : s.dout.wf = true) {a : Nat}
    (ha : s.dlen.toNat ≤ a) : (s.pipeline c ek ak taglen true).withholdOutput.dout.read a = s.dout.read a := by
  have hwrote : Wrote s (.mgmdecall ek ak taglen) (s.pipeline c ek ak taglen true) :=
    wrote_pipeline s c ek ak taglen true (by simp [Instr.opcode])
  obtain ⟨hwf, hread⟩ := hwrote.dout_wf_and_read hdout
  rw [State.withholdOutput_dout, State.pipeline_dlen,
    Memory.read_writeBytes_outside hwf (.inr (by rw [length_zeros]; omega)), hread a ha]

/-- What no command writes: the operand registers, the input buffers and the host's side (R21, R66). -/
theorem exec_inputs {i : Instr} {s t : State} (h : exec i s = .next t) :
    t.alen = s.alen ∧ t.dlen = s.dlen ∧ t.klen = s.klen ∧ t.ivlen = s.ivlen ∧ t.secsz = s.secsz ∧ t.ivin = s.ivin ∧
      t.keyin = s.keyin ∧ t.tagin = s.tagin ∧ t.ain = s.ain ∧ t.din = s.din ∧ t.pending = s.pending ∧
      t.reply = s.reply := by
  rcases exec_cases h with hran | ⟨e, _, _, _, rfl⟩ | ⟨k, v, e, _, _, rfl⟩ | ⟨ek, ak, taglen, _, _, _, rfl⟩
  · obtain ⟨x, hx, rfl | ⟨_, rfl⟩⟩ := hran.wrote
    · exact hx.inputs
    · exact hx.inputs
  · simp
  · simp
  · simp

theorem exec_tag {i : Instr} {s t : State} (h : exec i s = .next t)
    (hi : i.opcode ∉ [Opcode.omac, .mgmaclean, .mgmfin, .mgmencall, .mgmdecall]) : t.tag = s.tag := by
  rcases exec_cases h with hran | ⟨e, _, _, _, rfl⟩ | ⟨k, v, e, _, _, rfl⟩ | ⟨ek, ak, taglen, rfl, _, _, rfl⟩
  · obtain ⟨x, hx, rfl | ⟨_, rfl⟩⟩ := hran.wrote
    · exact hx.tag_eq hi
    · exact hx.tag_eq hi
  · rfl
  · rfl
  · exact absurd (by simp [Instr.opcode]) hi

theorem exec_dout {i : Instr} {s t : State} (h : exec i s = .next t)
    (hi : i.opcode ∉ [Opcode.kenc, .kdec, .ecbenc, .ecbdec, .ctr, .acpkm, .mgmenc, .mgmdec, .mgmencall, .mgmdecall]) :
    t.dout = s.dout := by
  rcases exec_cases h with hran | ⟨e, _, _, _, rfl⟩ | ⟨k, v, e, _, _, rfl⟩ | ⟨ek, ak, taglen, rfl, _, _, rfl⟩
  · obtain ⟨x, hx, rfl | ⟨_, rfl⟩⟩ := hran.wrote
    · exact hx.dout_eq hi
    · exact hx.dout_eq hi
  · rfl
  · rfl
  · exact absurd (by simp [Instr.opcode]) hi

theorem exec_dout_read {i : Instr} {s t : State} (h : exec i s = .next t) (hdout : s.dout.wf = true) {a : Nat}
    (ha : s.dlen.toNat ≤ a) : t.dout.read a = s.dout.read a := by
  rcases exec_cases h with hran | ⟨e, _, _, _, rfl⟩ | ⟨k, v, e, _, _, rfl⟩ | ⟨ek, ak, taglen, rfl, _, _, rfl⟩
  · obtain ⟨x, hx, rfl | ⟨_, rfl⟩⟩ := hran.wrote
    · exact (hx.dout_wf_and_read hdout).2 a ha
    · exact (hx.dout_wf_and_read hdout).2 a ha
  · rfl
  · rfl
  · rw [State.raise_dout, withheld_dout hdout ha]

/-- Settles O20: what the Effects by kind of command write, and what a failure does. -/
theorem commandsWriteOnlyTheirOutputs : Obligations.CommandsWriteOnlyTheirOutputs := by
  unfold Obligations.CommandsWriteOnlyTheirOutputs
  intro i s t h
  obtain ⟨halen, hdlen, hklen, hivlen, hsecsz, hivin, hkeyin, htagin, hain, hdin, hpending, hreply⟩ := exec_inputs h
  exact ⟨halen, hdlen, hklen, hivlen, hsecsz, hivin, hkeyin, htagin, hain, hdin, hpending, hreply, exec_tag h,
    exec_dout h, fun hdout _ => exec_dout_read h hdout⟩

/-! ### Slots -/

theorem Failed.slot_eq {c : Config} {i : Instr} {s t : State} (h : Failed c i s t) (k : SlotId) :
    t.slot k = s.slot k := by
  rcases h with ⟨e, _, _, _, rfl⟩ | ⟨k, v, e, _, _, rfl⟩ | ⟨ek, ak, taglen, _, _, _, rfl⟩
  · simp
  · simp
  · simp

/-- Settles O42: neither the Effects of the other commands nor a failure writes a slot. -/
theorem otherCommandsLeaveSlotsAlone : Obligations.OtherCommandsLeaveSlotsAlone := by
  unfold Obligations.OtherCommandsLeaveSlotsAlone
  intro i s t hi h k
  rcases exec_cases h with hran | hfailed
  · obtain ⟨x, hx, rfl | ⟨_, rfl⟩⟩ := hran.wrote
    · exact (x.finish_slot k).trans (hx.slot_eq hi k)
    · exact (x.finishVerified_slot k).trans (hx.slot_eq hi k)
  · exact hfailed.slot_eq k

/-- Two slots in the same life-cycle state, with the same block size and installed key (R25, R26). -/
def Slot.SameKey (a b : Slot) : Prop := a.st = b.st ∧ a.bs16 = b.bs16 ∧ a.key = b.key

/-- A stream command writes nothing of a slot but its stream (R114). -/
theorem State.runStream_sameKey {s : State} {c : Config} {u : Slot → Key × Slot}
    (hu : ∀ sl, (u sl).2 = { sl with wkey := (u sl).2.wkey, secpos := (u sl).2.secpos }) {k : SlotId} {sl : Slot}
    (hsl : sl.SameKey (s.slot k)) (k' : SlotId) : ((s.runStream c u k sl).slot k').SameKey (s.slot k') := by
  rw [State.runStream_eq, State.writeDout_slot]
  by_cases hk : k' = k
  · rw [hk, State.slot_setSlot, stream_slot hu]
    exact hsl
  · rw [State.slot_setSlot_of_ne s _ hk]
    exact ⟨rfl, rfl, rfl⟩

/-- Only the key-setting commands, `KCREATE` and `KDESTROY` move a slot (R90). -/
theorem Ran.sameKey {c : Config} {i : Instr} {s t : State} (h : Ran c i s t)
    (hi : i.opcode ∉ [Opcode.kcreate, .kset, .ksetrnd, .ksetpwd, .kdestroy]) (k : SlotId) :
    (t.slot k).SameKey (s.slot k) := by
  have nonStream (hstream : i.opcode ∉ [Opcode.ctr, .acpkm]) : (t.slot k).SameKey (s.slot k) := by
    have hother : i.opcode ∉ [Opcode.kcreate, .kset, .ksetrnd, .ksetpwd, .kdestroy] ++ [Opcode.ctr, .acpkm] :=
      fun hmem => (List.mem_append.mp hmem).elim hi hstream
    have hslot : t.slot k = s.slot k := by
      obtain ⟨x, hx, rfl | ⟨_, rfl⟩⟩ := h.wrote
      · exact (x.finish_slot k).trans (hx.slot_eq hother k)
      · exact (x.finishVerified_slot k).trans (hx.slot_eq hother k)
    rw [hslot]
    exact ⟨rfl, rfl, rfl⟩
  cases i with
  | ctr k' first =>
    obtain ⟨_, _, _, _, rfl⟩ := h
    rw [State.finish_slot]
    exact State.runStream_sameKey ctrUseKey_slot (by cases first <;> exact ⟨rfl, rfl, rfl⟩) k
  | acpkm k' first =>
    obtain ⟨_, _, _, _, _, rfl⟩ := h
    rw [State.finish_slot]
    exact State.runStream_sameKey (acpkmUseKey_slot c) (by cases first <;> exact ⟨rfl, rfl, rfl⟩) k
  | _ => exact nonStream (by simp [Instr.opcode])

/-- A key-setting command that ended with OK ran on a slot not EMPTY, which it left KEYED (R91). -/
theorem Ran.keyed {c : Config} {i : Instr} {s t : State} {k : SlotId} (h : Ran c i s t)
    (hi : ∃ v, i = .kset k v ∨ i = .ksetrnd k v ∨ i = .ksetpwd k v) :
    (s.slot k).st ≠ .empty ∧ (t.slot k).st = .keyed ∧ (t.slot k).bs16 = (s.slot k).bs16 := by
  obtain ⟨v, rfl | rfl | rfl⟩ := hi
  · obtain ⟨hst, rfl⟩ := h
    simp [hst, Slot.install]
  · obtain ⟨hst, r, _, rfl⟩ := h
    simp [hst, Slot.install]
  · obtain ⟨hst, d, rfl⟩ := h
    simp [hst, Slot.install]

theorem Ran.of_ok {i : Instr} {s t : State} (h : exec i s = .next t) (hok : t.err = .ok) :
    Ran Config.machine i s t :=
  (exec_cases h).resolve_right fun hfailed => hfailed.err_ne_ok hok

/-- Settles O29: each move of R90 from what the command wrote, and no move by any other command. -/
theorem slotLifeCycle : Obligations.SlotLifeCycle := by
  unfold Obligations.SlotLifeCycle
  intro i s t k h
  refine ⟨fun hok hi => ?created, fun hok => (Ran.of_ok h hok).keyed, fun hi => ?destroyed, fun hok hauth => ?failed,
    fun hi => ?other⟩
  case created =>
    obtain ⟨bs, rfl⟩ := hi
    obtain ⟨_, rfl⟩ := Ran.of_ok h hok
    simp
  case destroyed =>
    subst hi
    have hdestroy : exec (.kdestroy k) s = _ := execKdestroy_eq k s
    obtain rfl := Host.Outcome.next.inj (hdestroy.symm.trans h)
    simp [Slot.zeroized]
  case failed =>
    rcases exec_cases h with hran | hfailed
    · exact absurd hran.err_and_phase.1 hok
    · exact hfailed.slot_eq k
  case other =>
    rcases exec_cases h with hran | hfailed
    · exact hran.sameKey hi k
    · rw [hfailed.slot_eq k]
      exact ⟨rfl, rfl, rfl⟩

/-! ### The length counters -/

theorem State.authUpdate_counters (s : State) (c : Config) :
    (s.authUpdate c).m.abits = countBits s.m.abits s.alen.toNat ∧ (s.authUpdate c).m.pbits = s.m.pbits := by
  rw [State.authUpdate, absorbAll_eq]
  exact ⟨rfl, rfl⟩

theorem State.cryptSession_counters (s : State) (c : Config) (decrypt : Bool) :
    (s.cryptSession c decrypt).abits = s.m.abits ∧
      (s.cryptSession c decrypt).pbits = countBits s.m.pbits s.dlen.toNat := by
  rw [State.cryptSession, Machine.crypt_eq]
  exact ⟨rfl, rfl⟩

/-- One chunk of each kind is counted from zero (R160). -/
theorem State.pipeline_counters (s : State) (c : Config) (ek ak : SlotId) (taglen : Nat) (decrypt : Bool) :
    (s.pipeline c ek ak taglen decrypt).m.abits.toNat = 8 * s.alen.toNat ∧
      (s.pipeline c ek ak taglen decrypt).m.pbits.toNat = 8 * s.dlen.toNat := by
  obtain ⟨habits, hpbits⟩ := (s.dataPhase c ek ak).cryptSession_counters c decrypt
  have hupdate : (s.dataPhase c ek ak).m.abits = countBits 0 s.alen.toNat :=
    ((s.authClean c ek ak).authUpdate_counters c).1
  rw [State.pipeline_eq, State.authFinish_m, State.crypt_m, habits, hpbits, hupdate]
  exact ⟨(toNat_countBits (zero_add_bits_le_maxBits s.alen)).trans (Nat.zero_add _),
    (toNat_countBits (zero_add_bits_le_maxBits s.dlen)).trans (Nat.zero_add _)⟩

/-- The counters after a command that consumed something or began a session or data phase (R33, R135 to R138). -/
def countersAfter (s : State) : Instr → Nat × Nat
  | .mgmaclean _ _ => (0, 0)
  | .mgmaupd => (s.m.abits.toNat + 8 * s.alen.toNat, s.m.pbits.toNat)
  | .mgmeclean => (s.m.abits.toNat, 0)
  | .mgmenc | .mgmdec => (s.m.abits.toNat, s.m.pbits.toNat + 8 * s.dlen.toNat)
  | .mgmencall _ _ _ | .mgmdecall _ _ _ => (8 * s.alen.toNat, 8 * s.dlen.toNat)
  | _ => (s.m.abits.toNat, s.m.pbits.toNat)

theorem Ran.counters {c : Config} {i : Instr} {s t : State} (h : Ran c i s t) :
    (t.m.abits.toNat, t.m.pbits.toNat) = countersAfter s i := by
  cases i with
  | mgmaclean ek ak => obtain ⟨_, _, _, rfl⟩ := h; rfl
  | mgmaupd =>
    obtain ⟨_, _, _, _, hlong, rfl⟩ := h
    obtain ⟨habits, hpbits⟩ := s.authUpdate_counters c
    rw [State.finish_m, habits, hpbits, toNat_countBits hlong]
    rfl
  | mgmeclean => obtain ⟨_, _, rfl⟩ := h; rfl
  | mgmenc =>
    obtain ⟨_, _, _, _, _, hlong, rfl⟩ := h
    obtain ⟨habits, hpbits⟩ := s.cryptSession_counters c false
    rw [State.finish_m, State.crypt_m, habits, hpbits, toNat_countBits hlong]
    rfl
  | mgmdec =>
    obtain ⟨_, _, _, _, _, hlong, rfl⟩ := h
    obtain ⟨habits, hpbits⟩ := s.cryptSession_counters c true
    rw [State.finish_m, State.crypt_m, habits, hpbits, toNat_countBits hlong]
    rfl
  | mgmfin taglen => obtain ⟨_, _, _, _, rfl⟩ := h; rfl
  | mgmencall ek ak taglen =>
    obtain ⟨_, rfl⟩ := h
    obtain ⟨habits, hpbits⟩ := s.pipeline_counters c ek ak taglen false
    rw [State.finish_m, habits, hpbits]
    rfl
  | mgmdecall ek ak taglen =>
    obtain ⟨_, _, rfl⟩ := h
    obtain ⟨habits, hpbits⟩ := s.pipeline_counters c ek ak taglen true
    rw [State.finishVerified_m, habits, hpbits]
    rfl
  | _ =>
    obtain ⟨x, hx, rfl | ⟨⟨_, _, _, hi⟩, _⟩⟩ := h.wrote
    · rw [State.finish_m, hx.m_eq (by simp [Instr.opcode])]
      rfl
    · cases hi

/-- A failed command counts nothing, but for an `MGMDECALL` whose tag differs (R141, R162). -/
theorem Failed.counters {c : Config} {i : Instr} {s t : State} (h : Failed c i s t) :
    (t.m.abits.toNat, t.m.pbits.toNat) =
      if t.err = .authenticationFailed then countersAfter s i else (s.m.abits.toNat, s.m.pbits.toNat) := by
  rcases h with ⟨e, _, he, _, rfl⟩ | ⟨k, v, e, rfl, _, rfl⟩ | ⟨ek, ak, taglen, rfl, _, _, rfl⟩
  · exact (if_neg he).symm
  · exact (ite_self (s.m.abits.toNat, s.m.pbits.toNat)).symm
  · obtain ⟨habits, hpbits⟩ := s.pipeline_counters c ek ak taglen true
    rw [State.raise_m, State.withholdOutput_m, habits, hpbits]
    exact (if_pos rfl).symm

theorem exec_counters {i : Instr} {s t : State} (h : exec i s = .next t) :
    (t.m.abits.toNat, t.m.pbits.toNat) =
      if t.err = .ok ∨ t.err = .authenticationFailed then countersAfter s i
      else (s.m.abits.toNat, s.m.pbits.toNat) := by
  rcases exec_cases h with hran | hfailed
  · rw [if_pos (.inl hran.err_and_phase.1)]
    exact hran.counters
  · rw [hfailed.counters]
    simp only [hfailed.err_ne_ok, false_or]

/-- Settles O53: `exec_counters`, one counter at a time. -/
theorem countersCountTrueLengths : Obligations.CountersCountTrueLengths := by
  unfold Obligations.CountersCountTrueLengths
  intro i s t h
  have counters := exec_counters h
  have habits := congrArg Prod.fst counters
  have hpbits := congrArg Prod.snd counters
  rw [apply_ite Prod.fst] at habits
  rw [apply_ite Prod.snd] at hpbits
  cases i with | _ => exact ⟨habits, hpbits⟩

end Sys2Proof.Machine
end

section
/-! The host port (R23, R51, R57, R60, R65, R178, R190): the reset input, the command step, what a write transaction
stores, the bits of `STATUS`, and what no read transaction shows. -/

namespace Sys2Proof.Machine

open Sys2Proof

/-! ### The reset input and the command step -/

/-- Settles O2: the reset input is a request of the interface, served by `State.resetInput`. -/
theorem resetInputRestoresReset : Obligations.ResetInputRestoresReset := by
  unfold Obligations.ResetInputRestoresReset
  exact fun _ _ hp => step_of_request hp rfl nofun

theorem step_of_decode {s : State} {w : Word} {rest : List Transaction} {i : Instr}
    (hp : s.pending = .wr 0x00 (w.setWidth 64) :: rest) (hw : decode w = some i) :
    step s = exec i { s with pending := rest, reply := none } := by
  rw [step_of_command hp (request_command _ w), runWord, hw]
  rfl

/-- The word that `withFetchWord` places is the next transaction. -/
theorem State.withFetchWord_pending (s : State) (w : Word) :
    (s.withFetchWord 32 w.toNat).pending = .wr 0x00 (w.setWidth 64) :: s.pending := by
  rw [State.withFetchWord, Nat.mod_eq_of_lt w.isLt, commandWrite_toNat]

/-- Settles O10: `step_of_decode`, with `decode_encode` for the word that `withFetchWord` places. -/
theorem stepRunsDecodedCommand : Obligations.StepRunsDecodedCommand := by
  unfold Obligations.StepRunsDecodedCommand
  exact ⟨fun _ _ _ _ => step_of_decode, fun s i hi =>
    step_of_decode (s.withFetchWord_pending (encode i)) (decode_encode hi)⟩

/-! ### Write transactions -/

theorem step_wr {n : Nat} {r : Reg} (hn : Reg.ofNumber n = some r) (hr : r ≠ .cmd) (s : State) (v : Word)
    (rest : List Transaction) :
    step { s with pending := .wr n (v.setWidth 64) :: rest } =
      .next ((s.accept rest).writeReg r (v.setWidth 64)) :=
  step_of_request rfl (request_wr hn hr v) nofun

/-- A length counter takes every value of a transaction, and ignores it (R51, R58). -/
theorem step_wr_counter {n : Nat} {r : Reg} (hn : Reg.ofNumber n = some r) (hr : r = .abits ∨ r = .pbits) (s : State)
    (d : DWord) (rest : List Transaction) :
    step { s with pending := .wr n d :: rest } = .next (s.accept rest) := by
  have hd := d.isLt
  have hq : request Config.machine (.wr n d) = .ok (.writeReg r d) := by
    rcases hr with rfl | rfl
    · simp only [request, writeRequest, hn, Reg.width, Nat.not_le.mpr hd, if_false, reduceCtorEq]
    · simp only [request, writeRequest, hn, Reg.width, Nat.not_le.mpr hd, if_false, reduceCtorEq]
  rw [step_of_request rfl hq nofun]
  rcases hr with rfl | rfl
  · rfl
  · rfl

theorem step_wrb {n size off : Nat} {sp : Space} {b : List Byte} (h : (n, sp, size) ∈ bufferTable Config.machine)
    (hb : 1 ≤ b.length) (hs : off + b.length ≤ size) (s : State) (rest : List Transaction) :
    step { s with pending := .wrb n off b :: rest } = .next ((s.accept rest).writeSpace sp off b) :=
  step_of_request rfl (request_wrb h hb hs) nofun

/-- `TAG` and `DOUT` ignore a write (R51). -/
theorem State.writeSpace_eq (s : State) (sp : Space) (off : Nat) (b : List Byte) :
    s.writeSpace sp off b = if sp = .tag ∨ sp = .dout then s else s.setBuf sp ((s.buf sp).writeBytes off b) := by
  cases sp <;> rfl

/-- Settles O13: the step of each write transaction, and the bytes of a buffer after `MemWrite`. -/
theorem writeTransactions : Obligations.WriteTransactions := by
  unfold Obligations.WriteTransactions
  intro s rest v t write
  have stored (d : BitVec 32) : (d.setWidth 64).setWidth 32 = d := setWidth_32_64 d
  have halen := step_wr (n := 0x02) rfl nofun s v rest
  have hdlen := step_wr (n := 0x03) rfl nofun s v rest
  have hklen := step_wr (n := 0x04) rfl nofun s v rest
  have hivlen := step_wr (n := 0x05) rfl nofun s v rest
  have hsecsz := step_wr (n := 0x06) rfl nofun s v rest
  simp only [State.writeReg, stored] at halen hdlen hklen hivlen hsecsz
  refine ⟨halen, hdlen, hklen, hivlen, hsecsz, step_wr (n := 0x01) rfl nofun s v rest, fun d => ?counters,
    fun n sp size off b hmem hb hsize hwf => ?buffer⟩
  case counters =>
    exact ⟨step_wr_counter (n := 0x08) rfl (.inl rfl) s d rest, step_wr_counter (n := 0x09) rfl (.inr rfl) s d rest⟩
  case buffer =>
    refine ⟨(s.buf sp).writeBytes off b,
      ⟨Memory.wf_writeBytes hwf off b, fun a => Memory.read_writeBytes hwf off b a⟩, ?_⟩
    rw [step_wrb hmem hb hsize, State.writeSpace_eq, State.accept_buf]
    rfl

/-! ### The bits of `STATUS` -/

/-- The code of an error has 8 bits. -/
theorem ErrCode.code_getElem (e : ErrCode) {i : Nat} (h : 8 ≤ i) (hi : i < 32) : e.code[i] = false := by
  have narrow : e.code = (e.code.setWidth 8).setWidth 32 := by cases e <;> rfl
  rw [← BitVec.getLsbD_eq_getElem, narrow, BitVec.getLsbD_setWidth, BitVec.getLsbD_of_ge _ _ h, Bool.and_false]

/-- The code of a phase has 2 bits. -/
theorem Phase.code_getElem (p : Phase) {i : Nat} (h : 2 ≤ i) (hi : i < 32) : p.code[i] = false := by
  have narrow : p.code = (p.code.setWidth 2).setWidth 32 := by cases p <;> rfl
  rw [← BitVec.getLsbD_eq_getElem, narrow, BitVec.getLsbD_setWidth, BitVec.getLsbD_of_ge _ _ h, Bool.and_false]

/-- The code of a slot's state has 2 bits. -/
theorem SlotState.code_getElem (st : SlotState) {i : Nat} (h : 2 ≤ i) (hi : i < 32) : st.code[i] = false := by
  have narrow : st.code = (st.code.setWidth 2).setWidth 32 := by cases st <;> rfl
  rw [← BitVec.getLsbD_eq_getElem, narrow, BitVec.getLsbD_setWidth, BitVec.getLsbD_of_ge _ _ h, Bool.and_false]

theorem flagBit_getLsbD (b : Bool) (i : Nat) : (flagBit b).getLsbD i = (decide (i = 0) && b) := by
  cases b with
  | false => simp [flagBit]
  | true => simp [flagBit]

/-- A field of `STATUS` at bit `n`. -/
theorem getLsbD_field (x : Word) (n : Nat) {i : Nat} (hi : i < 32) :
    (x <<< n).getLsbD i = (decide (n ≤ i) && x.getLsbD (i - n)) := by
  simp only [BitVec.getLsbD_shiftLeft, hi, decide_true, Bool.true_and, ← Nat.not_le, decide_not, Bool.not_not]

/-- Every bit of the word is that of the fields that reach it (R23). -/
theorem State.statusWord_getLsbD (s : State) {i : Nat} (hi : i < 32) :
    s.statusWord.getLsbD i =
      (s.err.code.getLsbD i || (decide (8 ≤ i) && s.m.phase.code.getLsbD (i - 8)) ||
        (decide (10 ≤ i) && (decide (i - 10 = 0) && s.m.aclosed)) ||
        (decide (11 ≤ i) && (decide (i - 11 = 0) && s.m.eclosed)) ||
        (decide (12 ≤ i) && (decide (i - 12 = 0) && s.verdict)) ||
        (decide (16 ≤ i) && s.k0.st.code.getLsbD (i - 16)) || (decide (18 ≤ i) && s.k1.st.code.getLsbD (i - 18)) ||
        (decide (20 ≤ i) && (decide (i - 20 = 0) && s.k0.bs16)) ||
        (decide (21 ≤ i) && (decide (i - 21 = 0) && s.k1.bs16))) := by
  simp only [State.statusWord, BitVec.getLsbD_or, getLsbD_field _ _ hi, flagBit_getLsbD]

theorem State.statusWord_extract (s : State) {lo n : Nat} {v : BitVec n}
    (hv : ∀ i, i < n → s.statusWord.getLsbD (lo + i) = v.getLsbD i) : s.statusWord.extractLsb' lo n = v := by
  refine BitVec.eq_of_getLsbD_eq fun i hi => ?_
  rw [BitVec.getLsbD_extractLsb', decide_eq_true hi, Bool.true_and, hv i hi]

theorem State.statusWord_err (s : State) : s.statusWord.extractLsb' 0 8 = s.err.code.setWidth 8 := by
  refine s.statusWord_extract fun i hi => ?_
  rw [s.statusWord_getLsbD (by omega), BitVec.getLsbD_setWidth]
  interval_cases i <;> simp

theorem State.statusWord_phase (s : State) : s.statusWord.extractLsb' 8 2 = s.m.phase.code.setWidth 2 := by
  refine s.statusWord_extract fun i hi => ?_
  rw [s.statusWord_getLsbD (by omega), BitVec.getLsbD_setWidth]
  interval_cases i <;> simp [ErrCode.code_getElem]

theorem State.statusWord_slot0 (s : State) : s.statusWord.extractLsb' 16 2 = s.k0.st.code.setWidth 2 := by
  refine s.statusWord_extract fun i hi => ?_
  rw [s.statusWord_getLsbD (by omega), BitVec.getLsbD_setWidth]
  interval_cases i <;> simp [ErrCode.code_getElem, Phase.code_getElem]

theorem State.statusWord_slot1 (s : State) : s.statusWord.extractLsb' 18 2 = s.k1.st.code.setWidth 2 := by
  refine s.statusWord_extract fun i hi => ?_
  rw [s.statusWord_getLsbD (by omega), BitVec.getLsbD_setWidth]
  interval_cases i <;> simp [ErrCode.code_getElem, Phase.code_getElem, SlotState.code_getElem]

theorem State.statusWord_zeros (s : State) :
    s.statusWord.extractLsb' 13 3 = 0 ∧ s.statusWord.extractLsb' 22 10 = 0 := by
  constructor
  · refine s.statusWord_extract fun i hi => ?_
    rw [s.statusWord_getLsbD (by omega)]
    interval_cases i <;> simp [ErrCode.code_getElem, Phase.code_getElem]
  · refine s.statusWord_extract fun i hi => ?_
    rw [s.statusWord_getLsbD (by omega)]
    interval_cases i <;>
      simp [ErrCode.code_getElem, Phase.code_getElem, SlotState.code_getElem]

theorem State.statusWord_flags (s : State) :
    s.statusWord.getLsbD 10 = s.m.aclosed ∧ s.statusWord.getLsbD 11 = s.m.eclosed ∧
      s.statusWord.getLsbD 12 = s.verdict ∧ s.statusWord.getLsbD 20 = s.k0.bs16 ∧
      s.statusWord.getLsbD 21 = s.k1.bs16 := by
  refine ⟨?_, ?_, ?_, ?_, ?_⟩ <;> rw [s.statusWord_getLsbD (by decide)] <;>
    simp [ErrCode.code_getElem, Phase.code_getElem, SlotState.code_getElem]

/-- The numbers of R170, R31 and R25 as the tables write them out. -/
theorem ErrCode.eq_code_of_mem {e : ErrCode} {n : BitVec 8}
    (h : (e, n) ∈ [(ErrCode.ok, 0), (.invalidParameter, 1), (.invalidKeyLength, 2), (.scheduleFailure, 3),
      (.invalidIVLength, 4), (.phaseViolation, 5), (.dataTooLong, 6), (.authenticationFailed, 7),
      (.allocationFailure, 8), (.invalidLength, 9), (.randomSourceExhausted, 10), (.kdfFailure, 11)]) :
    e.code.setWidth 8 = n := by
  have row : ∀ p ∈ [(ErrCode.ok, (0 : BitVec 8)), (.invalidParameter, 1), (.invalidKeyLength, 2), (.scheduleFailure, 3),
      (.invalidIVLength, 4), (.phaseViolation, 5), (.dataTooLong, 6), (.authenticationFailed, 7),
      (.allocationFailure, 8), (.invalidLength, 9), (.randomSourceExhausted, 10), (.kdfFailure, 11)],
      p.1.code.setWidth 8 = p.2 := by decide
  exact row _ h

theorem Phase.eq_code_of_mem {p : Phase} {n : BitVec 2}
    (h : (p, n) ∈ [(Phase.clean, 0), (.auth, 1), (.enc, 2), (.finalized, 3)]) : p.code.setWidth 2 = n := by
  have row : ∀ p ∈ [(Phase.clean, (0 : BitVec 2)), (.auth, 1), (.enc, 2), (.finalized, 3)],
      p.1.code.setWidth 2 = p.2 := by decide
  exact row _ h

theorem SlotState.eq_code_of_mem {st : SlotState} {n : BitVec 2}
    (h : (st, n) ∈ [(SlotState.empty, 0), (.created, 1), (.keyed, 2)]) : st.code.setWidth 2 = n := by
  have row : ∀ p ∈ [(SlotState.empty, (0 : BitVec 2)), (.created, 1), (.keyed, 2)], p.1.code.setWidth 2 = p.2 := by
    decide
  exact row _ h

/-- Settles O15: the fields of the word one by one. -/
theorem statusWordFields : Obligations.StatusWordFields := by
  unfold Obligations.StatusWordFields
  intro s
  obtain ⟨haclosed, heclosed, hverdict, hk0, hk1⟩ := s.statusWord_flags
  obtain ⟨hlow, hhigh⟩ := s.statusWord_zeros
  exact ⟨fun _ h => s.statusWord_err.trans (ErrCode.eq_code_of_mem h),
    fun _ h => s.statusWord_phase.trans (Phase.eq_code_of_mem h), haclosed, heclosed, hverdict, hlow,
    fun _ h => s.statusWord_slot0.trans (SlotState.eq_code_of_mem h),
    fun _ h => s.statusWord_slot1.trans (SlotState.eq_code_of_mem h), hk0, hk1, hhigh⟩

/-! ### What the host sees -/

section
variable {s t : State} (h : SameToHost s t)
include h

theorem SameToHost.statusWord : s.statusWord = t.statusWord := by
  have hst0 : s.k0.st = t.k0.st := h.slotState .slot0
  have hst1 : s.k1.st = t.k1.st := h.slotState .slot1
  have hbs0 : s.k0.bs16 = t.k0.bs16 := h.slotBs16 .slot0
  have hbs1 : s.k1.bs16 = t.k1.bs16 := h.slotBs16 .slot1
  simp only [State.statusWord, h.err, h.phase, h.aclosed, h.eclosed, h.verdict, hst0, hst1, hbs0, hbs1]

theorem SameToHost.readReg (r : Reg) : s.readReg r = t.readReg r := by
  cases r with
  | cmd => rfl
  | status => exact congrArg Reply.word h.statusWord
  | alen => exact congrArg Reply.word h.alen
  | dlen => exact congrArg Reply.word h.dlen
  | klen => exact congrArg Reply.word h.klen
  | ivlen => exact congrArg Reply.word h.ivlen
  | secsz => exact congrArg Reply.word h.secsz
  | abits => exact congrArg Reply.dword h.abits
  | pbits => exact congrArg Reply.dword h.pbits

/-- `KEYIN` reads as zeros, whatever it holds (R51). -/
theorem SameToHost.readSpace (sp : Space) (off k : Nat) : s.readSpace sp off k = t.readSpace sp off k := by
  unfold State.readSpace
  split
  · rfl
  · rename_i hsp
    rw [h.buffers sp hsp]

end

/-- A read that is accepted in one state is accepted in every other, and what it returns depends only on what the host
sees. -/
theorem step_read {tr : Transaction} (htr : (∃ n, tr = .rd n) ∨ ∃ n off k, tr = .rdb n off k) {s s' : State}
    {rest : List Transaction} (h : step { s with pending := tr :: rest } = .next s') :
    ∃ reply : State → Reply, (∀ s t, SameToHost s t → reply t = reply s) ∧
      ∀ t : State, step { t with pending := tr :: rest } = .next { t with pending := rest, reply := some (reply t) } := by
  have accepted : ¬ ∃ e, request Config.machine tr = .error e := by
    rintro ⟨e, he⟩
    rw [step_of_error rfl he] at h
    cases h
  obtain ⟨n, rfl⟩ | ⟨n, off, k, rfl⟩ := htr
  · cases hn : Reg.ofNumber n with
    | none => exact absurd (request_rd_error_iff.mpr (Reg.ofNumber_eq_none_iff.mp hn)) accepted
    | some r => exact ⟨fun t => t.readReg r, fun _ _ hsame => (hsame.readReg r).symm, fun t => step_rd hn t rest⟩
  · have inside := spaceRequest_error_iff.not.mp accepted
    push Not at inside
    obtain ⟨sp, size, hmem, hk, hsize⟩ := inside
    exact ⟨fun t => t.readSpace sp off k, fun _ _ hsame => (hsame.readSpace sp off k).symm,
      fun t => step_rdb hmem (Nat.pos_of_ne_zero hk) hsize t rest⟩

/-- Settles O16: `step_read` in both states. -/
theorem hostSeesNoSecrets : Obligations.HostSeesNoSecrets := by
  unfold Obligations.HostSeesNoSecrets
  intro s t rest tr hsame htr s' hstep
  obtain ⟨reply, hreply, hread⟩ := step_read htr hstep
  rw [hread s] at hstep
  obtain rfl := Host.Outcome.next.inj hstep
  exact ⟨_, hread t, congrArg some (hreply s t hsame)⟩

end Sys2Proof.Machine
end

section
/-! `KSETRND` (R94), the doubling of OMAC (R119), and that key and mode commands ignore the MGM session (R110). -/

namespace Sys2Proof.Machine

open Sys2Proof

/-! ### `KSETRND` -/

theorem ksetrndWith_of_empty {s : State} {k : SlotId} (h : (s.slot k).st = .empty) (c : Config) (v : Bool) :
    ksetrndWith c k v s = .next (s.raise .invalidParameter) := by
  rw [ksetrndWith, if_pos (slotEmpty_eq_true.mpr h)]

section
variable {s : State} {c : Config} {k : SlotId} (hst : (s.slot k).st ≠ .empty) (v : Bool)
include hst

theorem ksetrndWith_of_exhausted (hrng : c.rng s.draws keyBytes = none) :
    ksetrndWith c k v s = .next { s.raise .randomSourceExhausted with draws := s.draws + 1 } := by
  rw [ksetrndWith, if_neg (fun h => hst (slotEmpty_eq_true.mp h)), hrng]
  rfl

/-- The schedule is asked after the draw, which is counted whatever it answers. -/
theorem ksetrndWith_of_drawn {r : Key} (hrng : c.rng s.draws keyBytes = some r) :
    ksetrndWith c k v s =
      .next
        { (if c.scheduleOk (s.slot k).bs16 r v then installedState s k r else s.raise .scheduleFailure) with
          draws := s.draws + 1 } := by
  have hinstall := State.command_install (s := s.drawn) (k := k) (key := r) (effect := fun s => s.install k r) rfl
    (c.scheduleOk (s.slot k).bs16 r v)
  rw [ksetrndWith, if_neg (fun h => hst (slotEmpty_eq_true.mp h)), hrng]
  refine hinstall.trans ?_
  cases c.scheduleOk (s.slot k).bs16 r v with
  | false => rfl
  | true => cases k <;> rfl

end

/-- Settles O23: the slot is checked before the draw, and the schedule after it. -/
theorem ksetrndResult : Obligations.KsetrndResult := by
  unfold Obligations.KsetrndResult
  refine ⟨?accepted, ?ready, fun k v s h => ksetrndWith_of_empty h Config.machine v⟩
  case accepted =>
    intro c k v s r hst hrng hok
    exact (ksetrndWith_of_drawn hst v hrng).trans (by rw [if_pos hok])
  case ready =>
    intro k v s hst
    cases hrng : Config.machine.rng s.draws 32 with
    | none => exact ksetrndWith_of_exhausted hst v hrng
    | some r => exact ksetrndWith_of_drawn hst v hrng

/-! ### The doubling -/

theorem ofNat_toNat_mul_two {n : Nat} (v : BitVec n) : BitVec.ofNat n (v.toNat * 2 % 2 ^ n) = v <<< 1 := by
  refine BitVec.eq_of_toNat_eq ?_
  rw [BitVec.toNat_ofNat, BitVec.toNat_shiftLeft, Nat.mod_mod, Nat.shiftLeft_eq]

/-- Settles O40: doubling is a shift at the width of the block, and `B_n` fits the block. -/
theorem omacDoubling : Obligations.OmacDoubling := by
  unfold Obligations.OmacDoubling
  refine ⟨fun v => ?wide, fun v => ?narrow⟩
  case wide =>
    simp only [dbl, if_true, dblConstant, ofNat_toNat_mul_two]
  case narrow =>
    have hshift : BitVec.ofNat 128 ((v.setWidth 128).toNat * 2 % 2 ^ 64) = (v <<< 1).setWidth 128 := by
      refine BitVec.eq_of_toNat_eq ?_
      have := v.isLt
      simp only [BitVec.toNat_ofNat, BitVec.toNat_setWidth, BitVec.toNat_shiftLeft, Nat.shiftLeft_eq]
      omega
    have htop : (v.setWidth 128).getLsbD 63 = v.getLsbD 63 := by simp
    simp only [dbl, Bool.false_eq_true, if_false, dblConstant, hshift, BitVec.setWidth_xor, htop, Nat.reduceSub,
      apply_ite (BitVec.setWidth 128)]
    rfl

/-! ### The session under key and mode commands -/

/-- A command reads and writes nothing of the session, its checks included. -/
def IgnoresSession (run : State → Host.Outcome State Fault Refusal) : Prop :=
  ∀ (s : State) (m : Session), run (s.setSession m) = andThen (run s) fun t => .next (t.setSession m)

/-- An Effect reads and writes nothing of the session. -/
def EffectIgnoresSession (effect : State → State) : Prop :=
  ∀ (s : State) (m : Session), effect (s.setSession m) = (effect s).setSession m

/-- A command whose checks come out the same and whose Effect ignores the session. -/
theorem State.command_setSession {effect : State → State} (h : EffectIgnoresSession effect) (s : State) (m : Session)
    (cs : List (Bool × ErrCode)) :
    (s.setSession m).command cs effect = andThen (s.command cs effect) fun t => .next (t.setSession m) := by
  cases hcs : firstFailing cs with
  | some e =>
    rw [State.command_of_fail effect hcs, State.command_of_fail effect hcs]
    rfl
  | none =>
    rw [State.command_of_pass effect hcs, State.command_of_pass effect hcs, h s m]
    rfl

/-- What a command ignores it leaves unchanged. -/
theorem IgnoresSession.m_eq {run : State → Host.Outcome State Fault Refusal} (h : IgnoresSession run) {s t : State}
    (hs : run s = .next t) : t.m = s.m := by
  have replaced := h s s.m
  rw [show s.setSession s.m = s from rfl, hs] at replaced
  have ht : t = t.setSession s.m := Host.Outcome.next.inj replaced
  rw [ht, State.setSession_m]

theorem IgnoresSession.next {run : State → Host.Outcome State Fault Refusal} (h : IgnoresSession run) {s t : State}
    (hs : run s = .next t) (m : Session) : run (s.setSession m) = .next (t.setSession m) := by
  rw [h s m, hs]
  rfl

@[simp] theorem State.setSession_setSlot (s : State) (m : Session) (k : SlotId) (sl : Slot) :
    (s.setSession m).setSlot k sl = (s.setSlot k sl).setSession m := by
  cases k with
  | slot0 => rfl
  | slot1 => rfl

@[simp] theorem State.setSession_install (s : State) (m : Session) (k : SlotId) (key : Key) :
    (s.setSession m).install k key = (s.install k key).setSession m := by
  rw [State.install_eq, State.setSession_slot, State.setSession_setSlot, State.install_eq]

@[simp] theorem State.setSession_runStream (s : State) (m : Session) (c : Config) (u : Slot → Key × Slot) (k : SlotId)
    (sl : Slot) : (s.setSession m).runStream c u k sl = (s.runStream c u k sl).setSession m := by
  cases k with
  | slot0 => rfl
  | slot1 => rfl

theorem setSlot_ignores_session (k : SlotId) (sl : Slot) : EffectIgnoresSession fun s => s.setSlot k sl :=
  fun s m => s.setSession_setSlot m k sl

theorem install_ignores_session (k : SlotId) (key : Key) : EffectIgnoresSession fun s => s.install k key :=
  fun s m => s.setSession_install m k key

/-- The checks and operands of key and mode commands are in the slot, the registers and the input buffers. -/
theorem State.setSession_operands (s : State) (m : Session) (c : Config) (k : SlotId) :
    (s.setSession m).slotEmpty k = s.slotEmpty k ∧ (s.setSession m).notKeyed k = s.notKeyed k ∧
      (s.setSession m).dataTooBig c = s.dataTooBig c ∧ (s.setSession m).adTooBig c = s.adTooBig c ∧
      (s.setSession m).dataBytes = s.dataBytes ∧ (s.setSession m).adBytes = s.adBytes ∧
      (s.setSession m).keyBytesIn = s.keyBytesIn ∧ ∀ n, (s.setSession m).ivBytes n = s.ivBytes n := by
  have hslot : (s.setSession m).slot k = s.slot k := s.setSession_slot m k
  exact ⟨congrArg (fun sl : Slot => sl.st == .empty) hslot, congrArg (fun sl : Slot => sl.st != .keyed) hslot,
    rfl, rfl, rfl, rfl, rfl, fun _ => rfl⟩

theorem ksetrnd_ignores_session (c : Config) (k : SlotId) (v : Bool) : IgnoresSession (ksetrndWith c k v) := by
  intro s m
  simp only [ksetrndWith, State.setSession_operands s m c k, State.setSession_draws, State.setSession_slot]
  cases hempty : s.slotEmpty k with
  | true => rfl
  | false =>
    cases hrng : c.rng s.draws keyBytes with
    | none => rfl
    | some r => exact State.command_setSession (install_ignores_session k r) s.drawn m _

theorem ksetpwd_ignores_session (c : Config) (k : SlotId) (v : Bool) : IgnoresSession (ksetpwdWith c k v) := by
  intro s m
  simp only [ksetpwdWith, State.setSession_operands s m c k, State.setSession_slot]
  cases hcs : firstFailing
      [(s.slotEmpty k, .invalidParameter), (s.adTooBig c || s.dataTooBig c, .invalidParameter)] with
  | some e => rfl
  | none =>
    cases hkdf : c.kdf s.adBytes s.dataBytes keyBytes with
    | none => rfl
    | some d => exact State.command_setSession (install_ignores_session k d) s m _

theorem oneBlock_ignores_session (k : SlotId) (f : Bool → Key → Block → Block) :
    IgnoresSession fun s => s.oneBlock k f := by
  intro s m
  simp only [State.oneBlock, State.setSession_operands s m Config.machine k, State.setSession_dlen,
    State.setSession_slot]
  refine State.command_setSession (fun s m => ?_) s m _
  simp only [State.setSession_slot]
  rfl

theorem ecbCommand_ignores_session (c : Config) (k : SlotId) (f : Bool → Key → Block → Block) :
    IgnoresSession fun s => s.ecbCommand c k f := by
  intro s m
  simp only [State.ecbCommand, State.setSession_operands s m c k, State.setSession_dlen, State.setSession_slot]
  refine State.command_setSession (fun s m => ?_) s m _
  simp only [State.setSession_slot]
  rfl

/-- Key and mode commands have none of the MGM opcodes. -/
theorem ignoresSession_of_on {k : SlotId} {i : Instr} (h : keyCommandOn k i = true ∨ modeCommandOn k i = true)
    (c : Config) : IgnoresSession (execWith c i) := by
  cases i with
  | kcreate k' bs => exact fun s m => State.command_setSession (setSlot_ignores_session k' _) s m _
  | kset k' v =>
    intro s m
    simp only [execWith, ksetWith, State.setSession_operands s m c k', State.setSession_klen, State.setSession_slot]
    refine State.command_setSession (fun s m => ?_) s m _
    simp only [State.setSession_operands s m c k', State.setSession_install]
  | ksetrnd k' v => exact ksetrnd_ignores_session c k' v
  | ksetpwd k' v => exact ksetpwd_ignores_session c k' v
  | kenc k' => exact oneBlock_ignores_session k' (blockEnc c)
  | kdec k' => exact oneBlock_ignores_session k' (blockDec c)
  | kdestroy k' => exact fun s m => State.command_setSession (setSlot_ignores_session k' Slot.zeroized) s m []
  | ecbenc k' => exact ecbCommand_ignores_session c k' (blockEnc c)
  | ecbdec k' => exact ecbCommand_ignores_session c k' (blockDec c)
  | ctr k' first =>
    intro s m
    simp only [execWith, ctrWith, State.setSession_operands s m c k', State.setSession_ivlen, State.setSession_slot]
    refine State.command_setSession (fun s m => ?_) s m _
    simp only [State.setSession_slot, State.setSession_runStream]
    rfl
  | acpkm k' first =>
    intro s m
    simp only [execWith, acpkmWith, State.setSession_operands s m c k', State.setSession_ivlen, State.setSession_secsz,
      State.setSession_slot]
    refine State.command_setSession (fun s m => ?_) s m _
    simp only [State.setSession_slot, State.setSession_runStream]
    rfl
  | omac k' =>
    intro s m
    simp only [execWith, omacWith, State.setSession_operands s m c k']
    refine State.command_setSession (fun s m => ?_) s m _
    simp only [State.setSession_slot]
    rfl
  | _ => exact h.elim nofun nofun

/-- Settles O41: each key and mode command ignores the session, so it leaves it unchanged. -/
theorem keyAndModeCommandsIgnoreTheSession : Obligations.KeyAndModeCommandsIgnoreTheSession := by
  unfold Obligations.KeyAndModeCommandsIgnoreTheSession
  rintro i s t m ⟨k, hk⟩ h
  have ignores := ignoresSession_of_on hk Config.machine
  rw [exec_eq_execWith] at h ⊢
  exact ⟨ignores.m_eq h, ignores.next h m⟩

end Sys2Proof.Machine
end

section
/-! Round trips of the ciphers (R10, R97, R112, R115, R117, R140): `Dec` after `Enc`, block by block, a keystream applied
twice, and the first section of ACPKM. -/

namespace Sys2Proof.Machine

open Sys2Proof

/-! ### Block transforms -/

theorem byteOf_blockOf_readBytes (sl : Slot) (m : Memory) (off : Nat) {i : Nat} (hi : i < sl.bs) :
    byteOf sl.bs (blockOf (m.readBytes off sl.bs)) i = m.read (off + i) := by
  rw [byteOf, bytesOf_blockOf_bs sl (Memory.length_readBytes m off sl.bs), Memory.getD_readBytes _ _ _ _ hi]

/-- Where a buffer holds an enciphered block, deciphering it gives the block back (R10). -/
theorem byteOf_blockDec_of_enciphered {c : Config} {sl : Slot} {data out : Memory} {off : Nat}
    (hout : ∀ i, i < sl.bs →
      out.read (off + i) = byteOf sl.bs (blockEnc c sl.bs16 sl.key (blockOf (data.readBytes off sl.bs))) i)
    {i : Nat} (hi : i < sl.bs) :
    byteOf sl.bs (blockDec c sl.bs16 sl.key (blockOf (out.readBytes off sl.bs))) i = data.read (off + i) := by
  have hblock : out.readBytes off sl.bs =
      bytesOf sl.bs (blockEnc c sl.bs16 sl.key (blockOf (data.readBytes off sl.bs))).toNat := by
    refine List.ext_getElem (by simp) fun i h1 h2 => ?_
    rw [Memory.length_readBytes] at h1
    rw [Memory.getElem_readBytes, hout i h1, byteOf, List.getD_eq_getElem _ _ h2]
  have hwidth := blockOf_lt (Memory.length_readBytes data off sl.bs) sl.bs_le
  rw [hblock, blockOf_bytesOf sl (blockEnc_lt c sl sl.key _), blockDec_blockEnc c sl sl.key hwidth,
    byteOf_blockOf_readBytes sl data off hi]

/-- Settles O27: `KENC` leaves the enciphered block in `DOUT`, and `KDEC` deciphers it. -/
theorem kdecInvertsKenc : Obligations.KdecInvertsKenc := by
  unfold Obligations.KdecInvertsKenc
  intro k s hdout hst hlen
  obtain ⟨d, ⟨hwf, hread⟩, henc⟩ := (kencResult k s hdout).1 hst hlen
  let t : State := { s with dout := d, err := .ok, verdict := false }
  have hslot : ({ t with din := d } : State).slot k = s.slot k := by cases k <;> rfl
  obtain ⟨d', ⟨_, hread'⟩, hdec⟩ := (kdecResult k { t with din := d } hwf).1
    (by rw [hslot]; exact hst) (by rw [hslot]; exact hlen)
  refine ⟨t, _, henc, rfl, hdec, rfl, fun a ha => ?_⟩
  rw [hlen] at ha
  rw [hslot] at hread'
  have houtput := byteOf_blockDec_of_enciphered (out := d) (data := s.din) (off := 0)
    (fun i hi => (hread (0 + i)).trans (by rw [Nat.zero_add]; exact if_pos hi)) ha
  rw [Nat.zero_add] at houtput
  exact (hread' a).trans ((if_pos ha).trans houtput)

/-- A block of whole blocks lies inside them. -/
theorem block_lt {bs len a i : Nat} (hlen : len % bs = 0) (ha : a < len) (hi : i < bs) : a / bs * bs + i < len := by
  obtain ⟨q, rfl⟩ := Nat.dvd_of_mod_eq_zero hlen
  have hq : a / bs < q := Nat.div_lt_of_lt_mul ha
  calc a / bs * bs + i
    _ < a / bs * bs + bs := Nat.add_lt_add_left hi _
    _ = bs * (a / bs + 1) := by ring
    _ ≤ bs * q := Nat.mul_le_mul_left bs hq

/-- Settles O33: the round trip of each block, at the offset of the block. -/
theorem ecbRoundTrip : Obligations.EcbRoundTrip := by
  unfold Obligations.EcbRoundTrip
  intro k s hdout hst hfits hlen
  have hbs := (s.slot k).bs_pos
  obtain ⟨d, ⟨hwf, hread⟩, henc⟩ := (ecbencResult k s hdout).1 hst hfits hlen
  let t : State := { s with dout := d, err := .ok, verdict := false }
  have hslot : ({ t with din := d } : State).slot k = s.slot k := by cases k <;> rfl
  obtain ⟨d', ⟨_, hread'⟩, hdec⟩ := (ecbdecResult k { t with din := d } hwf).1
    (by rw [hslot]; exact hst) hfits (by rw [hslot]; exact hlen)
  refine ⟨t, _, henc, rfl, hdec, rfl, fun a ha => ?_⟩
  rw [hslot] at hread'
  have henciphered (i : Nat) (hi : i < (s.slot k).bs) :
      d.read (a / (s.slot k).bs * (s.slot k).bs + i) =
        byteOf (s.slot k).bs (blockEnc Config.machine (s.slot k).bs16 (s.slot k).key
          (blockOf (s.din.readBytes (a / (s.slot k).bs * (s.slot k).bs) (s.slot k).bs))) i := by
    have hblock : (a / (s.slot k).bs * (s.slot k).bs + i) / (s.slot k).bs = a / (s.slot k).bs := by
      rw [Nat.mul_comm, Nat.mul_add_div hbs, Nat.div_eq_of_lt hi, Nat.add_zero]
    have hplace : (a / (s.slot k).bs * (s.slot k).bs + i) % (s.slot k).bs = i := by
      rw [Nat.mul_comm, Nat.mul_add_mod, Nat.mod_eq_of_lt hi]
    refine (hread _).trans ((if_pos (block_lt hlen ha hi)).trans ?_)
    rw [hblock, hplace]
  have houtput := byteOf_blockDec_of_enciphered henciphered (Nat.mod_lt a hbs)
  rw [Nat.div_add_mod'] at houtput
  exact (hread' a).trans ((if_pos ha).trans houtput)

/-! ### Streams that are opened -/

/-- The slot after a plain CTR stream opened at the counter `ctr` for `len` bytes (R115). -/
def Slot.afterCtr (sl : Slot) (ctr : Block) (len : Nat) : Slot :=
  { sl with ctr := ctrAt sl.bs ctr (numBlocks sl.bs len), live := decide (len % sl.bs = 0), kind := .ctr }

section
variable {s : State} {c : Config} {k : SlotId} (hdout : s.dout.wf = true) (hst : (s.slot k).st = .keyed)
  (hfits : s.dlen.toNat ≤ c.bufBytes) (hiv : s.ivlen.toNat = (s.slot k).bs / 2)
include hdout hst hfits hiv

/-- Opening a plain CTR stream reads nothing of the slot's own stream (R115). -/
theorem ctrWith_open :
    let sl := s.slot k
    ∃ d : Memory,
      d.Holds (fun a =>
        if a < s.dlen.toNat then
          s.din.read a ^^^ keystreamByte c sl.bs16 sl.key (ctrAt sl.bs (ivCounter s sl.bs) (a / sl.bs)) (a % sl.bs)
        else s.dout.read a) ∧
      ctrWith c k true s =
        .next (({ s with dout := d, err := .ok, verdict := false } : State).setSlot k
          (sl.afterCtr (ivCounter s sl.bs) s.dlen.toNat)) := by
  intro sl
  rw [ctrWith_eq, if_pos (.inl rfl), if_pos hst, if_pos hfits, if_pos fun _ => hiv]
  obtain ⟨d, hd, hrun⟩ := State.runStream_ctr c k (sl := sl.openCtr (s.ivBytes (sl.bs / 2))) hdout
    (ctrSeed_ivBytes s sl.bs) (ivCounter_lt s sl) rfl rfl
  exact ⟨d, hd, congrArg Host.Outcome.next hrun⟩

/-- Opening an ACPKM stream starts from the installed key at the front of a section (R116, R117). -/
theorem acpkmWith_open (hsection : s.secsz ≠ 0 ∧ s.secsz.toNat % (s.slot k).bs = 0) :
    let sl := s.slot k
    ∃ (d : Memory) (wkey : Key) (secpos : Word),
      d.Holds (fun a =>
        if a < s.dlen.toNat then
          s.din.read a ^^^
            keystreamByte c sl.bs16 (evolved c sl.bs16 sl.key ((0 + a / sl.bs * sl.bs) / s.secsz.toNat))
              (ctrAt sl.bs (ivCounter s sl.bs) (a / sl.bs)) (a % sl.bs)
        else s.dout.read a) ∧
      acpkmWith c k true s =
        .next (({ s with dout := d, err := .ok, verdict := false } : State).setSlot k
          { sl with
            ctr := ctrAt sl.bs (ivCounter s sl.bs) (numBlocks sl.bs s.dlen.toNat)
            live := decide (s.dlen.toNat % sl.bs = 0)
            kind := .acpkm
            wkey := wkey
            secsz := s.secsz
            secpos := secpos }) := by
  intro sl
  rw [acpkmWith_eq, if_pos (.inl rfl), if_pos hst, if_pos hfits, if_pos fun _ => hsection, if_pos fun _ => hiv]
  obtain ⟨d, hd, hrun⟩ := State.runStream_acpkm c k (sl := sl.openAcpkm (s.ivBytes (sl.bs / 2)) s.secsz) hdout
    (ctrSeed_ivBytes s sl.bs) (ivCounter_lt s sl) (Slot.inSection_openAcpkm hsection _) rfl rfl
  exact ⟨d, _, _, hd, congrArg Host.Outcome.next hrun⟩

end

theorem xor_xor_cancel (x y : Byte) : x ^^^ y ^^^ y = x := by
  rw [BitVec.xor_assoc, BitVec.xor_self, BitVec.xor_zero]

/-- Settles O35: both commands use the keystream of the same key and initial counter. -/
theorem ctrTwiceReturnsInput : Obligations.CtrTwiceReturnsInput := by
  unfold Obligations.CtrTwiceReturnsInput
  intro k s hdout hst hfits hiv
  obtain ⟨d, ⟨hwf, hread⟩, hrun⟩ := ctrWith_open (c := Config.machine) hdout hst hfits hiv
  let sl := (s.slot k).afterCtr (ivCounter s (s.slot k).bs) s.dlen.toNat
  let t := ({ s with dout := d, err := .ok, verdict := false } : State).setSlot k sl
  let t' := ({ s with dout := d, err := .ok, verdict := false, din := d } : State).setSlot k sl
  have ht' : ({ t with din := t.dout } : State) = t' := by cases k <;> rfl
  have hslot : t'.slot k = sl := State.slot_setSlot _ k sl
  have hcounter : ivCounter t' sl.bs = ivCounter s sl.bs := by rw [ivCounter, State.setSlot_ivin, ivCounter]
  obtain ⟨d', ⟨_, hread'⟩, hrun'⟩ := ctrWith_open (s := t') (c := Config.machine) (k := k)
    (by rw [State.setSlot_dout]; exact hwf) (by rw [hslot]; exact hst) (by rw [State.setSlot_dlen]; exact hfits)
    (by rw [hslot, State.setSlot_ivlen]; exact hiv)
  rw [hslot, State.setSlot_dlen, hcounter] at hrun'
  rw [hslot, State.setSlot_dlen, State.setSlot_din, hcounter] at hread'
  refine ⟨t, _, hrun, by simp [t], by rw [ht']; exact hrun', by simp, ?_, fun a ha => ?_⟩
  · rw [State.slot_setSlot, State.slot_setSlot]
    rfl
  · rw [State.setSlot_dout]
    have hsecond := (hread' a).trans (if_pos ha)
    rw [(hread a).trans (if_pos ha)] at hsecond
    exact hsecond.trans (xor_xor_cancel _ _)

/-- Settles O38: before the section size ACPKM has not evolved its key. -/
theorem acpkmFirstSectionEqualsCtr : Obligations.AcpkmFirstSectionEqualsCtr := by
  unfold Obligations.AcpkmFirstSectionEqualsCtr
  intro k s hdout hst hfits hiv hsecsz hblocks
  obtain ⟨d, ⟨_, hread⟩, hctr⟩ := ctrWith_open (c := Config.machine) hdout hst hfits hiv
  obtain ⟨d', wkey, secpos, ⟨_, hread'⟩, hacpkm⟩ :=
    acpkmWith_open (c := Config.machine) hdout hst hfits hiv ⟨hsecsz, hblocks⟩
  refine ⟨_, _, hctr, by simp, hacpkm, by simp, ?_, ?_, fun a ha hsec => ?_⟩
  · rw [State.slot_setSlot, State.slot_setSlot]
    rfl
  · rw [State.slot_setSlot]
  · have hstart : (0 + a / (s.slot k).bs * (s.slot k).bs) / s.secsz.toNat = 0 := by
      rw [Nat.zero_add]
      exact Nat.div_eq_of_lt (Nat.lt_of_le_of_lt (Nat.div_mul_le_self a _) hsec)
    rw [State.setSlot_dout, State.setSlot_dout]
    refine (hread' a).trans ((if_pos ha).trans (.trans ?_ ((hread a).trans (if_pos ha)).symm))
    rw [hstart]
    rfl

end Sys2Proof.Machine
end

section
/-! Chunks of a message: what `MGMDEC` makes of `MGMENC`'s output (R140), and a message cut at a multiple of the block
size, which the loops of R114, R136 and R138 see as the same list of blocks. -/

namespace Sys2Proof.Machine

open Sys2Proof

/-! ### A chunk cut in two -/

theorem Memory.readBytes_cut {m d : Memory} {a b : Nat} (hd : ∀ i, i < b → d.read i = m.read (a + i)) :
    m.readBytes 0 (a + b) = m.readBytes 0 a ++ d.readBytes 0 b := by
  rw [Memory.readBytes_add, Nat.zero_add]
  exact congrArg _ (Memory.readBytes_congr fun i hi => by rw [Nat.zero_add, hd i hi])

/-- The blocks of a chunk cut between two blocks are those of its parts. -/
theorem blocks_readBytes_cut {bs : Nat} (hbs : 0 < bs) {m d : Memory} {a b : Nat} (ha : a % bs = 0)
    (hd : ∀ i, i < b → d.read i = m.read (a + i)) :
    blocks bs (m.readBytes 0 (a + b)) = blocks bs (m.readBytes 0 a) ++ blocks bs (d.readBytes 0 b) := by
  rw [Memory.readBytes_cut hd, blocks_append hbs _ _ (by rwa [Memory.length_readBytes])]

theorem partialChunk_cut {bs a : Nat} (ha : a % bs = 0) (b : Nat) : partialChunk bs (a + b) = partialChunk bs b := by
  rw [partialChunk, Nat.add_mod, ha, Nat.zero_add, Nat.mod_mod, partialChunk]

section
variable {len : Word} {a b : Nat} (h : len.toNat = a + b)
include h

theorem toNat_ofNat_left_part : (BitVec.ofNat 32 a).toNat = a := by
  have := len.isLt
  exact Nat.mod_eq_of_lt (by omega)

theorem toNat_ofNat_right_part : (BitVec.ofNat 32 b).toNat = b := by
  have := len.isLt
  exact Nat.mod_eq_of_lt (by omega)

end

/-- The counter counts the parts as it counts the whole (R141). -/
theorem countBits_cut {n : DWord} {a b : Nat} (h : n.toNat + 8 * (a + b) ≤ maxBits) :
    (countBits n a).toNat + 8 * b ≤ maxBits ∧ countBits (countBits n a) b = countBits n (a + b) := by
  have hpart : (countBits n a).toNat = n.toNat + 8 * a := toNat_countBits (by omega)
  have hsum : n.toNat + 8 * a + 8 * b = n.toNat + 8 * (a + b) := by omega
  refine ⟨by rwa [hpart, hsum], ?_⟩
  rw [countBits, hpart, hsum, countBits]

/-- The output of the whole read at the places of its parts. -/
theorem Memory.read_writeBytes_parts {m m' : Memory} (hm : m.wf = true) (hm' : m'.wf = true) (x y : List Byte) :
    (∀ i, i < x.length → (m.writeBytes 0 x).read i = (m.writeBytes 0 (x ++ y)).read i) ∧
      ∀ i, i < y.length → (m'.writeBytes 0 y).read i = (m.writeBytes 0 (x ++ y)).read (x.length + i) := by
  have inside {m : Memory} (hm : m.wf = true) {b : List Byte} {i : Nat} (hi : i < b.length) :
      (m.writeBytes 0 b).read i = b.getD i 0 := by
    rw [← Memory.read_writeBytes_inside hm hi, Nat.zero_add]
  refine ⟨fun i hi => ?_, fun i hi => ?_⟩
  · rw [inside hm hi, inside hm (by rw [List.length_append]; omega), List.getD_append _ _ _ _ hi]
  · rw [inside hm' hi, inside hm (by rw [List.length_append]; omega),
      List.getD_append_right _ _ _ _ (Nat.le_add_right _ _), Nat.add_sub_cancel_left]

/-! ### Associated data -/

/-- Absorbing touches neither the counters nor the closed flags. -/
theorem absorbAll_counted (c : Config) (akey : Key) (m : Session) (n : DWord) (closed : Bool) (bl : List (List Byte)) :
    ({ m with abits := n, aclosed := closed } : Session).absorbAll c akey bl =
      { m.absorbAll c akey bl with abits := n, aclosed := closed } := by
  rw [absorbAll_eq, absorbAll_eq]

theorem State.authUpdate_m (s : State) (c : Config) :
    (s.authUpdate c).m =
      { s.m.absorbAll c s.authKey (blocks 16 s.adBytes) with
        abits := countBits s.m.abits s.alen.toNat
        aclosed := s.m.aclosed || partialChunk 16 s.alen.toNat } := by
  rw [State.authUpdate, absorbAll_eq]
  rfl

theorem State.authUpdate_ak (s : State) (c : Config) : (s.authUpdate c).m.ak = s.m.ak := by
  rw [State.authUpdate_m, absorbAll_eq]

theorem mgmaupdWith_of_ready {c : Config} {s : State} (haccepted : s.m.phase = .auth ∧ s.m.aclosed = false)
    (hfits : s.alen.toNat ≤ c.bufBytes) (husable : UsableInMgm s s.m.ak)
    (hcounts : s.m.abits.toNat + 8 * s.alen.toNat ≤ maxBits) :
    mgmaupdWith c s = .next (s.authUpdate c).finish :=
  State.chunkCommand_of_ready (effect := fun s => s.authUpdate c) wrongPhaseOrClosed_eq_false adTooBig_eq_false
    unusable_eq_false tooLong_eq_false ⟨haccepted, hfits, husable, hcounts⟩

/-- Settles O49: the two parts absorb the blocks of the whole, and the first leaves the phase open. -/
theorem associatedDataChunksJoin : Obligations.AssociatedDataChunksJoin := by
  unfold Obligations.AssociatedDataChunksJoin
  intro s t a b d hrun hok hlen ha hd
  obtain ⟨hphase, hopen, hfits, husable, hcounts, rfl⟩ := Ran.of_ok hrun hok
  rw [hlen] at hfits hcounts
  have hlenA := toNat_ofNat_left_part hlen
  have hlenB := toNat_ofNat_right_part hlen
  have hcountsA : s.m.abits.toNat + 8 * a ≤ maxBits := by omega
  obtain ⟨hcountsB, hcount⟩ := countBits_cut hcounts
  let s1 : State := { s with alen := BitVec.ofNat 32 a }
  let s2 : State := { (s1.authUpdate Config.machine).finish with alen := BitVec.ofNat 32 b, ain := d }
  have hm1 : s2.m = { s.m.absorbAll Config.machine s.authKey (blocks 16 (s.ain.readBytes 0 a)) with
      abits := countBits s.m.abits a, aclosed := false } := by
    have hclosed : (s1.m.aclosed || partialChunk 16 a) = false := by
      rw [partialChunk_eq_false.mpr ha, Bool.or_false]
      exact hopen
    refine (State.authUpdate_m s1 Config.machine).trans ?_
    rw [State.adBytes, hlenA, hclosed]
    rfl
  have hak : s2.m.ak = s.m.ak := State.authUpdate_ak s1 Config.machine
  have husable2 : UsableInMgm s2 s2.m.ak := by
    rw [hak]
    exact usableInMgm_of_slot_eq (State.authUpdate_slot s1 Config.machine _) husable
  have hauth : s2.authKey = s.authKey := by
    rw [State.authKey, hak]
    exact congrArg Slot.key (State.authUpdate_slot s1 Config.machine _)
  have hfirst : exec .mgmaupd s1 = .next (s1.authUpdate Config.machine).finish :=
    mgmaupdWith_of_ready ⟨hphase, hopen⟩ (by rw [hlenA]; omega) husable
      (by rw [hlenA]; exact hcountsA)
  have hsecond : exec .mgmaupd s2 = .next (s2.authUpdate Config.machine).finish :=
    mgmaupdWith_of_ready ⟨(State.authUpdate_phase s1 _).trans hphase, by rw [hm1]⟩ (by rw [hlenB]; omega) husable2
      (by rw [hlenB, hm1]; exact hcountsB)
  refine ⟨_, _, hfirst, hsecond, rfl, rfl, ?_⟩
  rw [State.finish_m, State.finish_m, State.authUpdate_m, State.authUpdate_m, hauth, hm1, absorbAll_counted,
    State.adBytes, State.adBytes, hlenB, hlen, blocks_readBytes_cut (by decide) ha hd, absorbAll_append,
    partialChunk_cut ha, hopen, hcount]

/-! ### Data -/

/-- The checks of `MGMENC` and `MGMDEC` pass (R138). -/
structure CryptReady (c : Config) (s : State) : Prop where
  phase : s.m.phase = .enc
  eclosed : s.m.eclosed = false
  fits : s.dlen.toNat ≤ c.bufBytes
  ek_usable : UsableInMgm s s.m.ek
  ak_usable : UsableInMgm s s.m.ak
  counts : s.m.pbits.toNat + 8 * s.dlen.toNat ≤ maxBits

theorem CryptReady.run {c : Config} {s : State} (h : CryptReady c s) (decrypt : Bool) :
    s.command (s.cryptChecks c) (fun s => s.crypt c decrypt) = .next (s.crypt c decrypt).finish :=
  State.chunkCommand_of_ready wrongPhaseOrClosed_eq_false dataTooBig_eq_false eitherUnusable_eq_false
    tooLong_eq_false ⟨⟨h.phase, h.eclosed⟩, h.fits, ⟨h.ek_usable, h.ak_usable⟩, h.counts⟩

/-- `MGMENC` and `MGMDEC` that end with OK passed their checks and ran `Crypt`. -/
theorem cryptReady_of_ok {i : Instr} (hi : i = .mgmenc ∨ i = .mgmdec) {s t : State} (hrun : exec i s = .next t)
    (hok : t.err = .ok) :
    CryptReady Config.machine s ∧
      ∃ decrypt, t = (s.crypt Config.machine decrypt).finish ∧
        ∀ s', CryptReady Config.machine s' → exec i s' = .next (s'.crypt Config.machine decrypt).finish := by
  have hran := Ran.of_ok hrun hok
  rcases hi with rfl | rfl
  · obtain ⟨hphase, hopen, hfits, hek, hak, hcounts, rfl⟩ := hran
    exact ⟨⟨hphase, hopen, hfits, hek, hak, hcounts⟩, false, rfl, fun s' h => h.run false⟩
  · obtain ⟨hphase, hopen, hfits, hek, hak, hcounts, rfl⟩ := hran
    exact ⟨⟨hphase, hopen, hfits, hek, hak, hcounts⟩, true, rfl, fun s' h => h.run true⟩

/-- `Crypt` touches neither the counters nor the closed flags. -/
theorem crypt_counted (c : Config) (ekey akey : Key) (decrypt : Bool) (m : Session) (n : DWord) (closed : Bool)
    (bl : List (List Byte)) :
    ({ m with pbits := n, eclosed := closed } : Session).crypt c ekey akey decrypt bl =
      ({ (m.crypt c ekey akey decrypt bl).1 with pbits := n, eclosed := closed },
        (m.crypt c ekey akey decrypt bl).2) := by
  rw [Machine.crypt_eq, Machine.crypt_eq]

theorem State.cryptSession_counted (s : State) (c : Config) (decrypt : Bool) :
    s.cryptSession c decrypt =
      { (s.m.crypt c s.encKey s.authKey decrypt (blocks 16 s.dataBytes)).1 with
        pbits := countBits s.m.pbits s.dlen.toNat
        eclosed := s.m.eclosed || partialChunk 16 s.dlen.toNat } := by
  rw [State.cryptSession, Machine.crypt_eq]

theorem State.crypt_ek (s : State) (c : Config) (decrypt : Bool) : (s.crypt c decrypt).m.ek = s.m.ek := by
  rw [State.crypt_m, State.cryptSession, Machine.crypt_eq]

section
variable {s : State} {c : Config} (h : CryptReady c s) {a b : Nat} {d : Memory} (hlen : s.dlen.toNat = a + b)
  (ha : a % 16 = 0) (hd : ∀ i, i < b → d.read i = s.din.read (a + i)) (decrypt : Bool)
include h hlen ha hd

/-- The first part leaves the data phase open for the second, and after both the session is that of the whole and the
outputs stand one after the other in its output. -/
theorem CryptReady.cut (hdout : s.dout.wf = true) :
    let s1 : State := { s with dlen := BitVec.ofNat 32 a }
    let s2 : State := { (s1.crypt c decrypt).finish with dlen := BitVec.ofNat 32 b, din := d }
    CryptReady c s1 ∧ CryptReady c s2 ∧ (s2.crypt c decrypt).m = (s.crypt c decrypt).m ∧
      (∀ j, j < a → (s1.crypt c decrypt).dout.read j = (s.crypt c decrypt).dout.read j) ∧
      ∀ j, j < b → (s2.crypt c decrypt).dout.read j = (s.crypt c decrypt).dout.read (a + j) := by
  intro s1 s2
  have hlenA : s1.dlen.toNat = a := toNat_ofNat_left_part hlen
  have hlenB : s2.dlen.toNat = b := toNat_ofNat_right_part hlen
  have hfits := hlen ▸ h.fits
  have hcounts := hlen ▸ h.counts
  have hcountsA : s.m.pbits.toNat + 8 * a ≤ maxBits := by omega
  obtain ⟨hcountsB, hcount⟩ := countBits_cut hcounts
  have hready1 : CryptReady c s1 :=
    { phase := h.phase
      eclosed := h.eclosed
      fits := by rw [hlenA]; omega
      ek_usable := h.ek_usable
      ak_usable := h.ak_usable
      counts := by rw [hlenA]; exact hcountsA }
  have hm2 : s2.m =
      { (s.m.crypt c s.encKey s.authKey decrypt (blocks 16 (s.din.readBytes 0 a))).1 with
        pbits := countBits s.m.pbits a
        eclosed := false } := by
    have hclosed : (s1.m.eclosed || partialChunk 16 a) = false := by
      rw [partialChunk_eq_false.mpr ha, Bool.or_false]
      exact h.eclosed
    refine (State.cryptSession_counted s1 c decrypt).trans ?_
    rw [State.dataBytes, hlenA, hclosed]
    rfl
  have hslot (k : SlotId) : s2.slot k = s.slot k := State.crypt_slot s1 c decrypt k
  have hek : s2.m.ek = s.m.ek := State.crypt_ek s1 c decrypt
  have hak : s2.m.ak = s.m.ak := State.crypt_ak s1 c decrypt
  have hready2 : CryptReady c s2 :=
    { phase := (State.cryptSession_phase s1 c decrypt).trans h.phase
      eclosed := by rw [hm2]
      fits := by rw [hlenB]; omega
      ek_usable := by rw [hek]; exact usableInMgm_of_slot_eq (hslot _) h.ek_usable
      ak_usable := by rw [hak]; exact usableInMgm_of_slot_eq (hslot _) h.ak_usable
      counts := by rw [hlenB, hm2]; exact hcountsB }
  have hkeys : s2.encKey = s.encKey ∧ s2.authKey = s.authKey := by
    rw [State.encKey, State.authKey, hek, hak, hslot, hslot]
    exact ⟨rfl, rfl⟩
  have hblocks := blocks_readBytes_cut (bs := 16) (by decide) ha hd
  have hsession : s2.cryptSession c decrypt = s.cryptSession c decrypt := by
    rw [State.cryptSession_counted, State.cryptSession_counted, hkeys.1, hkeys.2, hm2, crypt_counted,
      State.dataBytes, State.dataBytes, hlenB, hlen, hblocks, crypt_append, partialChunk_cut ha, hcount, h.eclosed]
  have houtput1 : s1.cryptOutput c decrypt =
      (s.m.crypt c s.encKey s.authKey decrypt (blocks 16 (s.din.readBytes 0 a))).2 := by
    rw [State.cryptOutput, State.dataBytes, hlenA]
    rfl
  have houtput2 : s2.cryptOutput c decrypt =
      ((s.m.crypt c s.encKey s.authKey decrypt (blocks 16 (s.din.readBytes 0 a))).1.crypt c s.encKey s.authKey
        decrypt (blocks 16 (d.readBytes 0 b))).2 := by
    rw [State.cryptOutput, hkeys.1, hkeys.2, hm2, crypt_counted, State.dataBytes, hlenB]
  have houtput : s.cryptOutput c decrypt = s1.cryptOutput c decrypt ++ s2.cryptOutput c decrypt := by
    rw [houtput1, houtput2, State.cryptOutput, State.dataBytes, hlen, hblocks, crypt_append]
  obtain ⟨hleft, hright⟩ := Memory.read_writeBytes_parts hdout
    (m' := s2.dout) (Memory.wf_writeBytes hdout 0 _) (s1.cryptOutput c decrypt) (s2.cryptOutput c decrypt)
  rw [← houtput, State.length_cryptOutput, hlenA] at hleft
  rw [← houtput, State.length_cryptOutput, State.length_cryptOutput, hlenA, hlenB] at hright
  exact ⟨hready1, hready2, hsession, hleft, hright⟩

end

/-- Settles O50: `CryptReady.cut` for both directions. -/
theorem dataChunksJoin : Obligations.DataChunksJoin := by
  unfold Obligations.DataChunksJoin
  intro i s t a b d hi hdout hrun hok hlen ha hd
  obtain ⟨hready, decrypt, rfl, hexec⟩ := cryptReady_of_ok hi hrun hok
  obtain ⟨hready1, hready2, hsession, hleft, hright⟩ := hready.cut hlen ha hd decrypt hdout
  exact ⟨_, _, hexec _ hready1, hexec _ hready2, rfl, rfl, hsession, hleft, hright⟩

/-- Settles O51: `MGMDEC` absorbs the ciphertext `MGMENC` absorbed, under the same counters. -/
theorem mgmdecUndoesMgmenc : Obligations.MgmdecUndoesMgmenc := by
  unfold Obligations.MgmdecUndoesMgmenc
  intro s t hdout hrun hok
  obtain ⟨hphase, hopen, hfits, hek, hak, hcounts, -⟩ := Ran.of_ok hrun hok
  obtain ⟨d, ⟨hwf, hread⟩, henc⟩ := State.cryptCommand_of_ready false hdout ⟨hphase, hopen⟩ hfits ⟨hek, hak⟩ hcounts
  obtain rfl := Host.Outcome.next.inj (henc.symm.trans hrun)
  obtain ⟨d', ⟨_, hread'⟩, hdec⟩ := State.cryptCommand_of_ready (s := { s with din := d }) true hdout
    ⟨hphase, hopen⟩ hfits ⟨hek, hak⟩ hcounts
  refine ⟨_, hdec, rfl, rfl, fun a ha => ?_⟩
  have hsecond := (hread' a).trans (if_pos ha)
  rw [(hread a).trans (if_pos ha)] at hsecond
  exact hsecond.trans (xor_xor_cancel _ _)

/-! ### Streams -/

section
variable {c : Config} {u : Slot → Key × Slot}
  (hu : ∀ sl, (u sl).2 = { sl with wkey := (u sl).2.wkey, secpos := (u sl).2.secpos })
include hu

/-- What a chunk of whole blocks leaves of the slot is what the stream leaves (R114). -/
theorem State.finish_runStream_slot_of_mod (s : State) (k : SlotId) (sl : Slot) (hlen : s.dlen.toNat % sl.bs = 0) :
    (s.runStream c u k sl).finish.slot k = (stream c u sl (blocks sl.bs s.dataBytes)).1 := by
  have hkept := stream_slot (c := c) hu sl (blocks sl.bs s.dataBytes)
  have hbs : (stream c u sl (blocks sl.bs s.dataBytes)).1.bs = sl.bs := by rw [hkept]; rfl
  rw [State.finish_slot, State.runStream_slot, Slot.closeStream, hbs, partialChunk_eq_false.mpr hlen, Bool.not_false,
    Bool.and_true]

section
variable {s : State} {k : SlotId} {sl : Slot} {a b : Nat} {d : Memory} (hdout : s.dout.wf = true)
  (hlen : s.dlen.toNat = a + b) (ha : a % sl.bs = 0) (hd : ∀ i, i < b → d.read i = s.din.read (a + i))
include hdout hlen ha hd

/-- The second part runs on from the slot the first one leaves, and both together are the whole (R114). -/
theorem State.runStream_cut :
    let t := (s.runStream c u k sl).finish
    let t1 := (({ s with dlen := BitVec.ofNat 32 a } : State).runStream c u k sl).finish
    let s2 : State := { t1 with dlen := BitVec.ofNat 32 b, din := d }
    let t2 := (s2.runStream c u k (t1.slot k)).finish
    (∃ ctr wkey secpos, t1.slot k = { sl with ctr := ctr, wkey := wkey, secpos := secpos }) ∧
      t2.slot k = t.slot k ∧ (∀ i, i < a → t1.dout.read i = t.dout.read i) ∧
      ∀ i, i < b → t2.dout.read i = t.dout.read (a + i) := by
  intro t t1 s2 t2
  let s1 : State := { s with dlen := BitVec.ofNat 32 a }
  have hlenA : s1.dlen.toNat = a := toNat_ofNat_left_part hlen
  have hlenB : s2.dlen.toNat = b := toNat_ofNat_right_part hlen
  let left := stream c u sl (blocks sl.bs (s.din.readBytes 0 a))
  let right := stream c u left.1 (blocks sl.bs (d.readBytes 0 b))
  have hkept : left.1 = { sl with ctr := left.1.ctr, wkey := left.1.wkey, secpos := left.1.secpos } :=
    stream_slot hu sl _
  have hbs : left.1.bs = sl.bs := by rw [hkept]; rfl
  have hdata1 : s1.dataBytes = s.din.readBytes 0 a := by rw [State.dataBytes, hlenA]
  have hdata2 : s2.dataBytes = d.readBytes 0 b := by rw [State.dataBytes, hlenB]
  have hwhole : stream c u sl (blocks sl.bs s.dataBytes) = (right.1, left.2 ++ right.2) := by
    rw [State.dataBytes, hlen, blocks_readBytes_cut sl.bs_pos ha hd, stream_append]
  have hslot1 : t1.slot k = left.1 := by
    rw [State.finish_runStream_slot_of_mod hu s1 k sl (by rw [hlenA]; exact ha), hdata1]
  have hright : stream c u (t1.slot k) (blocks (t1.slot k).bs s2.dataBytes) = right := by
    rw [hslot1, hbs, hdata2]
  have hrightBs : right.1.bs = sl.bs := by
    rw [stream_slot (c := c) hu left.1 (blocks sl.bs (d.readBytes 0 b))]
    exact hbs
  have hslot : t2.slot k = t.slot k := by
    rw [State.finish_slot, State.runStream_slot, hright, hlenB, State.finish_slot, State.runStream_slot, hwhole, hlen,
      Slot.closeStream, Slot.closeStream, hrightBs, partialChunk_cut ha]
  have huBs (x : Slot) : (u x).2.bs = x.bs := by rw [hu]; rfl
  have hleftLen : left.2.length = a := by
    rw [← hlenA, ← length_stream_dataBytes huBs s1 sl, hdata1]
  have hrightLen : right.2.length = b := by
    rw [← hlenB, ← length_stream_dataBytes huBs s2 (t1.slot k), hright]
  have hdout1 : t1.dout = s.dout.writeBytes 0 left.2 := by
    rw [State.finish_dout, State.runStream_dout, hdata1]
  have hdout2 : t2.dout = t1.dout.writeBytes 0 right.2 := by
    rw [State.finish_dout, State.runStream_dout, hright]
  have hdoutWhole : t.dout = s.dout.writeBytes 0 (left.2 ++ right.2) := by
    rw [State.finish_dout, State.runStream_dout, hwhole]
  obtain ⟨hreadLeft, hreadRight⟩ := Memory.read_writeBytes_parts hdout (m' := t1.dout)
    (by rw [hdout1]; exact Memory.wf_writeBytes hdout 0 _) left.2 right.2
  rw [hleftLen] at hreadLeft hreadRight
  rw [hrightLen] at hreadRight
  rw [hdout2, hdoutWhole, hslot1]
  refine ⟨⟨_, _, _, hkept⟩, hslot, ?_, hreadRight⟩
  rw [hdout1]
  exact hreadLeft

end
end

section
variable {c : Config} {k : SlotId} {first : Bool} {s : State} (hst : (s.slot k).st = .keyed)
  (hfits : s.dlen.toNat ≤ c.bufBytes) (hiv : first = true → s.ivlen.toNat = (s.slot k).bs / 2)
include hst hfits hiv

theorem ctrWith_run (hopen : first = true ∨ ((s.slot k).live = true ∧ (s.slot k).kind = .ctr)) :
    ctrWith c k first s =
      .next (s.runStream c ctrUseKey k
        (if first then (s.slot k).openCtr (s.ivBytes ((s.slot k).bs / 2)) else s.slot k)).finish := by
  rw [ctrWith_eq, if_pos hopen, if_pos hst, if_pos hfits, if_pos hiv]

theorem acpkmWith_run (hopen : first = true ∨ ((s.slot k).live = true ∧ (s.slot k).kind = .acpkm))
    (hsection : first = true → s.secsz.toNat ≠ 0 ∧ s.secsz.toNat % (s.slot k).bs = 0) :
    acpkmWith c k first s =
      .next (s.runStream c (acpkmUseKey c) k
        (if first then (s.slot k).openAcpkm (s.ivBytes ((s.slot k).bs / 2)) s.secsz else s.slot k)).finish := by
  have hsection' : first = true → s.secsz ≠ 0 ∧ s.secsz.toNat % (s.slot k).bs = 0 := fun hfirst =>
    ⟨fun hzero => (hsection hfirst).1 (congrArg BitVec.toNat hzero), (hsection hfirst).2⟩
  rw [acpkmWith_eq, if_pos hopen, if_pos hst, if_pos hfits, if_pos hsection', if_pos hiv]

end

/-- What a stream command that ends with OK has opened: its slot `sl`, with which it ran, would run a shorter chunk, and
from which the continuing command runs on (R114 to R116). -/
theorem streamCommand_of_ok {k : SlotId} {command : Bool → Instr}
    (hcommand : command = Instr.ctr k ∨ command = Instr.acpkm k) {first : Bool} {s t : State}
    (hrun : exec (command first) s = .next t) (hok : t.err = .ok) :
    ∃ (u : Slot → Key × Slot) (sl : Slot),
      (∀ x, (u x).2 = { x with wkey := (u x).2.wkey, secpos := (u x).2.secpos }) ∧ sl.bs = (s.slot k).bs ∧
      s.dlen.toNat ≤ Config.machine.bufBytes ∧ t = (s.runStream Config.machine u k sl).finish ∧
      (∀ len : Word, len.toNat ≤ Config.machine.bufBytes → exec (command first) { s with dlen := len } =
        .next (({ s with dlen := len } : State).runStream Config.machine u k sl).finish) ∧
      ∀ s' : State, (∃ ctr wkey secpos, s'.slot k = { sl with ctr := ctr, wkey := wkey, secpos := secpos }) →
        s'.dlen.toNat ≤ Config.machine.bufBytes →
        exec (command false) s' = .next (s'.runStream Config.machine u k (s'.slot k)).finish := by
  have hran := Ran.of_ok hrun hok
  rcases hcommand with rfl | rfl
  · obtain ⟨hopen, hst, hfits, hiv, rfl⟩ := hran
    refine ⟨ctrUseKey, _, ctrUseKey_slot, ?bs, hfits, rfl, fun len hlen => ?first, fun s' hslot hfits' => ?second⟩
    case bs => cases first <;> rfl
    case first => exact ctrWith_run (s := { s with dlen := len }) hst hlen hiv hopen
    case second =>
      obtain ⟨ctr, wkey, secpos, hslot⟩ := hslot
      have hopened : ((s'.slot k).live = true ∧ (s'.slot k).kind = .ctr) ∧ (s'.slot k).st = .keyed := by
        rw [hslot]
        cases first with
        | true => exact ⟨⟨rfl, rfl⟩, hst⟩
        | false => exact ⟨hopen.resolve_left nofun, hst⟩
      exact ctrWith_run (first := false) hopened.2 hfits' nofun (.inr hopened.1)
  · obtain ⟨hopen, hst, hfits, hsection, hiv, rfl⟩ := hran
    refine ⟨acpkmUseKey Config.machine, _, acpkmUseKey_slot _, ?bs, hfits, rfl, fun len hlen => ?first,
      fun s' hslot hfits' => ?second⟩
    case bs => cases first <;> rfl
    case first => exact acpkmWith_run (s := { s with dlen := len }) hst hlen hiv hopen hsection
    case second =>
      obtain ⟨ctr, wkey, secpos, hslot⟩ := hslot
      have hopened : ((s'.slot k).live = true ∧ (s'.slot k).kind = .acpkm) ∧ (s'.slot k).st = .keyed := by
        rw [hslot]
        cases first with
        | true => exact ⟨⟨rfl, rfl⟩, hst⟩
        | false => exact ⟨hopen.resolve_left nofun, hst⟩
      exact acpkmWith_run (first := false) hopened.2 hfits' nofun (.inr hopened.1) nofun

/-- Settles O36: both parts pass their checks and run the stream of the whole, cut between two blocks. -/
theorem streamChunksJoin : Obligations.StreamChunksJoin := by
  unfold Obligations.StreamChunksJoin
  intro k command first s t a b d hcommand hdout hrun hok hlen ha hd
  obtain ⟨u, sl, hu, hbs, hfits, rfl, hfirst, hsecond⟩ := streamCommand_of_ok hcommand hrun hok
  have hlenA := toNat_ofNat_left_part hlen
  have hlenB := toNat_ofNat_right_part hlen
  obtain ⟨hkept, hslot, hleft, hright⟩ :=
    State.runStream_cut (c := Config.machine) (k := k) hu hdout hlen (by rw [hbs]; exact ha) hd
  refine ⟨_, _, hfirst _ (by rw [hlenA]; omega), hsecond _ hkept (by rw [hlenB]; omega), ?_, ?_, hslot, hleft, hright⟩
  · rw [State.finish_err]
  · rw [State.finish_err]

end Sys2Proof.Machine
end

section
/-! The combined commands against the streaming ones and against each other (R145, R164), and the tag of the empty
message (R200). -/

namespace Sys2Proof.Machine

open Sys2Proof

/-- Settles O55: each streaming command runs one of the pipeline's five Effects. -/
theorem mgmencallEqualsStreaming : Obligations.MgmencallEqualsStreaming := by
  unfold Obligations.MgmencallEqualsStreaming
  intro ek ak taglen s h
  have hclean : exec (.mgmaclean ek ak) s = _ := mgmaclean_of_pipelineReady h
  have hupdate : exec .mgmaupd _ = _ := mgmaupd_of_pipelineReady h
  have hencClean : exec .mgmeclean _ = _ := mgmeclean_of_pipelineReady h
  have hcrypt : exec .mgmenc _ = _ := crypt_of_pipelineReady h false
  have hfinish : exec (.mgmfin taglen) _ = _ := mgmfin_of_pipelineReady h false
  have hcombined : exec (.mgmencall ek ak taglen) s = _ := mgmencallWith_of_ready h
  exact ⟨_, _, _, _, _, hclean, State.finish_err _, hupdate, State.finish_err _, hencClean, State.finish_err _, hcrypt,
    State.finish_err _, hfinish, State.finish_err _, hcombined⟩

/-! ### Decrypting what was encrypted -/

/-- The checks read the slots, the length registers and nothing of the buffers (R160). -/
theorem PipelineReady.congr {c : Config} {ek ak : SlotId} {taglen : Nat} {s t : State}
    (h : PipelineReady c ek ak taglen s) (hslot : ∀ k, t.slot k = s.slot k) (halen : t.alen = s.alen)
    (hdlen : t.dlen = s.dlen) (hivlen : t.ivlen = s.ivlen) : PipelineReady c ek ak taglen t where
  ek_usable := usableInMgm_of_slot_eq (hslot ek) h.ek_usable
  ak_usable := usableInMgm_of_slot_eq (hslot ak) h.ak_usable
  taglen_ge := h.taglen_ge
  taglen_le := h.taglen_le
  alen_le := by rw [halen]; exact h.alen_le
  dlen_le := by rw [hdlen]; exact h.dlen_le
  ivlen_lt := by rw [hivlen]; exact h.ivlen_lt

/-- The same accumulator gives the same tag, whatever `TAG` held before. -/
theorem State.pipeline_tag_read {s : State} {c : Config} {ek ak : SlotId} {taglen : Nat}
    (h : PipelineReady c ek ak taglen s) (htag : s.tag.wf = true) (decrypt : Bool) {a : Nat} (ha : a < taglen) :
    (s.pipeline c ek ak taglen decrypt).tag.read a =
      byteOf 16 (blockEnc c true (s.slot ak).key (s.pipeline c ek ak taglen decrypt).m.sum) a := by
  rw [State.pipeline_tag h htag]
  exact ((Memory.holds_writeBytes_truncatedTag htag h.taglen_le _).2 a).trans (if_pos ha)

section
variable {s t : State} {c : Config} {ek ak : SlotId} {taglen : Nat} (h : PipelineReady c ek ak taglen s)
  (hdout : s.dout.wf = true) (hready : PipelineReady c ek ak taglen t) (hwf : t.dout.wf = true)
  (hslot : ∀ k, t.slot k = s.slot k) (hdlen : t.dlen = s.dlen) (hivlen : t.ivlen = s.ivlen) (hivin : t.ivin = s.ivin)
  (hdin : t.din = (s.pipeline c ek ak taglen false).dout)
include h hdout hready hwf hslot hdlen hivlen hivin hdin

/-- Decrypting the output absorbs the ciphertext that encrypting absorbed. -/
theorem State.pipeline_decrypt_m (halen : t.alen = s.alen) (hain : t.ain = s.ain) :
    (t.pipeline c ek ak taglen true).m = (s.pipeline c ek ak taglen false).m := by
  have hsum : (t.pipeline c ek ak taglen true).m.sum = (s.pipeline c ek ak taglen false).m.sum := by
    have hsum := State.pipeline_sum hready hwf true
    have hsum' := State.pipeline_sum h hdout false
    simp only [if_true, Bool.false_eq_true, if_false] at hsum hsum'
    rw [hsum, hsum', hslot, hivlen, hivin, halen, hdlen, hain, hdin]
  have hm := State.pipeline_m hready hwf true
  rw [hslot, hslot, hivlen, hivin, halen, hdlen, hsum, State.latchedIv, hivlen, hivin] at hm
  exact hm.trans (State.pipeline_m h hdout false).symm

/-- Decrypting the output applies the same keystream again. -/
theorem State.pipeline_decrypt_read {a : Nat} (ha : a < s.dlen.toNat) :
    (t.pipeline c ek ak taglen true).dout.read a = s.din.read a := by
  obtain ⟨_, hread⟩ := State.pipeline_dout_holds h hdout false
  obtain ⟨_, hread'⟩ := State.pipeline_dout_holds hready hwf true
  have hsecond := hread' a
  rw [hslot, hivlen, hivin, hdlen, hdin] at hsecond
  rw [hsecond.trans (if_pos ha), (hread a).trans (if_pos ha)]
  exact xor_xor_cancel _ _

/-- So the tag computed is the tag `MGMENCALL` left. -/
theorem mgmdecallWith_of_encrypted (halen : t.alen = s.alen) (hain : t.ain = s.ain) (htag : s.tag.wf = true)
    (htag' : t.tag.wf = true) (htagin : t.tagin = (s.pipeline c ek ak taglen false).tag) :
    mgmdecallWith c ek ak taglen t = .next (t.pipeline c ek ak taglen true).finishVerified := by
  have hm := State.pipeline_decrypt_m h hdout hready hwf hslot hdlen hivlen hivin hdin halen hain
  have htags (i : Fin taglen) : (t.pipeline c ek ak taglen true).tag.read i.val = t.tagin.read i.val := by
    rw [htagin, State.pipeline_tag_read hready htag' true i.isLt, State.pipeline_tag_read h htag false i.isLt, hm, hslot]
  rw [mgmdecallWith_of_ready hready, if_pos htags]

end

/-- Settles O57: the second pipeline ends with the same session, so with the tag the host took from the first. -/
theorem combinedRoundTrip : Obligations.CombinedRoundTrip := by
  unfold Obligations.CombinedRoundTrip
  intro ek ak taglen s hdout htag h
  have henc : exec (.mgmencall ek ak taglen) s = _ := mgmencallWith_of_ready h
  have hwf := (State.pipeline_dout_holds h hdout false).1
  have htagWf : (s.pipeline Config.machine ek ak taglen false).tag.wf = true := by
    rw [State.pipeline_tag h htag]
    exact Memory.wf_writeBytes htag 0 _
  rw [State.finish_pipeline] at henc
  generalize hp : s.pipeline Config.machine ek ak taglen false = p at henc hwf htagWf
  let t : State :=
    { s with
      dout := p.dout, tag := p.tag, m := p.m, err := .ok, verdict := false
      din := p.dout, tagin := p.tag }
  have hready : PipelineReady Config.machine ek ak taglen t := h.congr (fun _ => rfl) rfl rfl rfl
  have hdin : t.din = (s.pipeline Config.machine ek ak taglen false).dout := by rw [hp]
  have hm := State.pipeline_decrypt_m h hdout hready hwf (fun _ => rfl) rfl rfl rfl hdin rfl rfl
  have hdata {a : Nat} := State.pipeline_decrypt_read h hdout hready hwf (fun _ => rfl) rfl rfl rfl hdin (a := a)
  have hdec := mgmdecallWith_of_encrypted h hdout hready hwf (fun _ => rfl) rfl rfl rfl hdin rfl rfl htag htagWf
    (by rw [hp])
  rw [hp] at hm
  exact ⟨_, _, henc, rfl, hdec, rfl, rfl, hm, fun a ha => hdata ha⟩

/-! ### The tag of the empty message -/

section
variable {c : Config} {s : State} (hgfmul : ∀ h : Block, c.gfmul h 0 = 0) (hsum : s.m.sum = 0) (habits : s.m.abits = 0)
  (hpbits : s.m.pbits = 0)
include hgfmul hsum habits hpbits

/-- Where nothing was absorbed or counted, the accumulator ends at 0. -/
theorem State.authFinish_sum_of_nothing (taglen : Nat) : (s.authFinish c taglen).m.sum = 0 := by
  have hlengths : lenBlock 0 0 = 0 := by decide
  rw [State.authFinish_m, hsum, habits, hpbits, hlengths, hgfmul, BitVec.xor_self]
  rfl

theorem State.authFinish_tag_of_nothing {m : Memory} (hm : m.wf = true) (htag : s.tag = m.writeBytes 0 (zeros 16))
    {taglen : Nat} (htaglen : taglen ≤ 16) {a : Nat} (ha : a < 16) :
    (s.authFinish c taglen).tag.read a = if a < taglen then byteOf 16 (blockEnc c true s.authKey 0) a else 0 := by
  rw [State.authFinish_tag, State.authFinish_sum_of_nothing hgfmul hsum habits hpbits, htag,
    Memory.writeBytes_overwrite hm (by rw [length_zeros, length_truncatedTag htaglen])]
  refine ((Memory.holds_writeBytes_truncatedTag hm htaglen _).2 a).trans ?_
  beta_reduce
  rw [if_pos ha]

end

theorem State.authClean_tag (s : State) (c : Config) (ek ak : SlotId) :
    (s.authClean c ek ak).tag = s.tag.writeBytes 0 (zeros 16) := rfl

/-- Absorbing no associated data and no data leaves the accumulator and the counters at 0 (R141). -/
theorem State.crypt_dataPhase_of_empty {c : Config} {ek ak : SlotId} {taglen : Nat} {s : State}
    (h : PipelineReady c ek ak taglen s) (halen : s.alen = 0) (hdlen : s.dlen = 0) :
    let m := ((s.dataPhase c ek ak).crypt c false).m
    m.sum = 0 ∧ m.abits = 0 ∧ m.pbits = 0 := by
  intro m
  have hempty : (s.dataPhase c ek ak).dataBytes = [] := by
    rw [State.dataBytes, State.dataPhase_dlen, hdlen]
    rfl
  have hm : m = { (s.dataPhase c ek ak).m with
      pbits := countBits (s.dataPhase c ek ak).m.pbits s.dlen.toNat
      eclosed := (s.dataPhase c ek ak).m.eclosed || partialChunk 16 s.dlen.toNat } := by
    have hsession := State.cryptSession_counted (s.dataPhase c ek ak) c false
    rw [hempty] at hsession
    exact (State.crypt_m _ c false).trans hsession
  rw [hm, State.dataPhase_m h.ivlen_lt, halen, hdlen]
  exact ⟨rfl, rfl, rfl⟩

/-- Settles O58: on both ways the tag is that of the accumulator 0 under the authentication key. -/
theorem emptyMessageTag : Obligations.EmptyMessageTag := by
  unfold Obligations.EmptyMessageTag
  intro c ek ak taglen s hgfmul htag h halen hdlen
  have hclean : execWith c (.mgmaclean ek ak) s = _ := mgmaclean_of_pipelineReady h
  have hfinish : execWith c (.mgmfin taglen) (s.authClean c ek ak).finish =
      .next ((s.authClean c ek ak).finish.authFinish c taglen).finish := by
    have husable : UsableInMgm (s.authClean c ek ak).finish ak := usableInMgm_of_slot_eq (by simp) h.ak_usable
    refine (mgmfinWith_eq c taglen _).trans ?_
    rw [if_pos (.inl rfl), if_pos ⟨h.taglen_ge, h.taglen_le⟩]
    exact if_pos husable
  have hcombined : execWith c (.mgmencall ek ak taglen) s = _ := mgmencallWith_of_ready h
  have hstreamed : andThen (execWith c (.mgmaclean ek ak) s) (execWith c (.mgmfin taglen)) =
      .next ((s.authClean c ek ak).finish.authFinish c taglen).finish := by
    rw [hclean, andThen_next, hfinish]
  obtain ⟨hsum, habits, hpbits⟩ := State.crypt_dataPhase_of_empty h halen hdlen
  have hcombinedTag {a : Nat} (ha : a < 16) := State.authFinish_tag_of_nothing hgfmul hsum habits hpbits htag
    ((State.crypt_tag _ c false).trans (State.dataPhase_tag s c ek ak)) h.taglen_le ha
  have hstreamedTag {a : Nat} (ha : a < 16) := State.authFinish_tag_of_nothing
    (s := (s.authClean c ek ak).finish) hgfmul rfl rfl rfl htag
    ((State.finish_tag _).trans (State.authClean_tag s c ek ak)) h.taglen_le ha
  have hauth : (s.authClean c ek ak).finish.authKey = (s.slot ak).key := rfl
  rw [State.crypt_dataPhase_authKey h] at hcombinedTag
  rw [hauth] at hstreamedTag
  refine ⟨_, _, hcombined, State.finish_err _, hstreamed, State.finish_err _, fun a ha => ?_⟩
  rw [State.finish_tag, State.finish_tag, State.pipeline_eq]
  exact ⟨hcombinedTag ha, (hstreamedTag ha).trans (hcombinedTag ha).symm⟩

end Sys2Proof.Machine
end

section
/-! The default `GFMUL` (R12). Multiplication by `x` is linear for xor, so the product by a polynomial is a combination of
its powers. A linear map that commutes with multiplication by `x` commutes with such a combination, and commutativity is
the case of the map `a ↦ a * b` on the combination `a = 1 * a`. -/

namespace Sys2Proof.Machine

open Sys2Proof

/-! ### Multiplication by `x` -/

theorem xor_zero_block (a : Block) : a ^^^ 0 = a := BitVec.xor_zero

theorem gfTimesX_zero : gfTimesX 0 = 0 := by decide

theorem gfTimesX_xor (a b : Block) : gfTimesX (a ^^^ b) = gfTimesX a ^^^ gfTimesX b := by
  have hreduce : (if (a ^^^ b).msb then (0x87 : Block) else 0) =
      (if a.msb then 0x87 else 0) ^^^ (if b.msb then 0x87 else 0) := by
    rw [BitVec.msb_xor]
    cases a.msb <;> cases b.msb <;> rfl
  rw [gfTimesX, hreduce, BitVec.shiftLeft_xor_distrib, gfTimesX, gfTimesX]
  ac_rfl

/-- Below the top degree the product with `x` raises the degree, with no reduction. -/
theorem gfTimesX_twoPow {i : Nat} (h : i + 1 < 128) :
    gfTimesX (BitVec.twoPow 128 i) = BitVec.twoPow 128 (i + 1) := by
  have hmsb : (BitVec.twoPow 128 i).msb = false := by
    rw [BitVec.msb_twoPow]
    simp only [Bool.and_eq_false_iff, decide_eq_false_iff_not]
    omega
  rw [gfTimesX, hmsb, if_neg Bool.false_ne_true, xor_zero_block, BitVec.twoPow, BitVec.twoPow, ← BitVec.shiftLeft_add]

/-! ### Linear maps that commute with it -/

/-- A map that keeps xor and commutes with the product with `x`. -/
structure GfLinear (f : Block → Block) : Prop where
  map_zero : f 0 = 0
  map_xor : ∀ a b, f (a ^^^ b) = f a ^^^ f b
  map_timesX : ∀ a, f (gfTimesX a) = gfTimesX (f a)

theorem gfLinear_timesX : GfLinear gfTimesX := ⟨gfTimesX_zero, gfTimesX_xor, fun _ => rfl⟩

theorem GfLinear.map_gfmulFrom {f : Block → Block} (hf : GfLinear f) (b : Block) (n i : Nat) (a : Block) :
    f (gfmulFrom b n i a) = gfmulFrom b n i (f a) := by
  induction n generalizing i a with
  | zero => exact hf.map_zero
  | succ n ih =>
    have hterm : f (if b.getLsbD i then a else 0) = if b.getLsbD i then f a else 0 := by
      rw [apply_ite f, hf.map_zero]
    rw [gfmulFrom, hf.map_xor, ih, hterm, hf.map_timesX, gfmulFrom]

/-! ### Products as combinations -/

theorem gfmulFrom_zero_left (b : Block) (n i : Nat) : gfmulFrom b n i 0 = 0 := by
  induction n generalizing i with
  | zero => rfl
  | succ n ih => rw [gfmulFrom, gfTimesX_zero, ih, ite_self, BitVec.xor_self]; rfl

theorem gfmulFrom_xor_left (b : Block) (n i : Nat) (a d : Block) :
    gfmulFrom b n i (a ^^^ d) = gfmulFrom b n i a ^^^ gfmulFrom b n i d := by
  induction n generalizing i a d with
  | zero => exact (xor_zero_block 0).symm
  | succ n ih =>
    have hterm : (if b.getLsbD i then a ^^^ d else 0) = (if b.getLsbD i then a else 0) ^^^ if b.getLsbD i then d else 0 := by
      cases b.getLsbD i <;> simp
    rw [gfmulFrom, gfTimesX_xor, ih, hterm, gfmulFrom, gfmulFrom]
    ac_rfl

theorem gfmulFrom_xor_right (b d : Block) (n i : Nat) (a : Block) :
    gfmulFrom (b ^^^ d) n i a = gfmulFrom b n i a ^^^ gfmulFrom d n i a := by
  induction n generalizing i a with
  | zero => exact (xor_zero_block 0).symm
  | succ n ih =>
    have hterm : (if (b ^^^ d).getLsbD i then a else 0) = (if b.getLsbD i then a else 0) ^^^ if d.getLsbD i then a else 0 := by
      rw [BitVec.getLsbD_xor]
      cases b.getLsbD i <;> cases d.getLsbD i <;> simp
    rw [gfmulFrom, ih, hterm, gfmulFrom, gfmulFrom]
    ac_rfl

/-- A multiplier with none of the bits read contributes nothing. -/
theorem gfmulFrom_of_bits_zero {b : Block} {i : Nat} (hb : ∀ j, i ≤ j → b.getLsbD j = false) (n : Nat) (a : Block) :
    gfmulFrom b n i a = 0 := by
  induction n generalizing i a with
  | zero => rfl
  | succ n ih =>
    rw [gfmulFrom, hb i le_rfl, ih fun j hj => hb j (by omega), if_neg Bool.false_ne_true, xor_zero_block]

/-- The combination of the powers of `x` themselves has the bits of the multiplier. -/
theorem getLsbD_gfmulFrom_twoPow (b : Block) {n i : Nat} (h : i + n ≤ 128) (k : Nat) :
    (gfmulFrom b n i (BitVec.twoPow 128 i)).getLsbD k = (decide (i ≤ k ∧ k < i + n) && b.getLsbD k) := by
  induction n generalizing i with
  | zero =>
    have hnone : decide (i ≤ k ∧ k < i + 0) = false := decide_eq_false (by omega)
    rw [hnone, Bool.false_and]
    exact BitVec.getLsbD_zero
  | succ n ih =>
    have hrest : (gfmulFrom b n (i + 1) (gfTimesX (BitVec.twoPow 128 i))).getLsbD k =
        (decide (i + 1 ≤ k ∧ k < i + 1 + n) && b.getLsbD k) := by
      cases n with
      | zero =>
        have hnone : decide (i + 1 ≤ k ∧ k < i + 1 + 0) = false := decide_eq_false (by omega)
        rw [hnone, Bool.false_and]
        exact BitVec.getLsbD_zero
      | succ n => rw [gfTimesX_twoPow (by omega), ih (by omega)]
    have hfirst : (if b.getLsbD i then BitVec.twoPow 128 i else 0).getLsbD k = (decide (i = k) && b.getLsbD k) := by
      have hi : i < 128 := by omega
      by_cases hk : i = k
      · subst hk
        cases b.getLsbD i <;> simp [hi]
      · cases b.getLsbD i <;> simp [BitVec.getLsbD_twoPow, hk]
    rw [gfmulFrom, BitVec.getLsbD_xor, hrest, hfirst]
    by_cases hk : i = k
    · have hlater : decide (i + 1 ≤ k ∧ k < i + 1 + n) = false := decide_eq_false (by omega)
      have hnow : decide (i ≤ k ∧ k < i + (n + 1)) = true := decide_eq_true (by omega)
      rw [hlater, hnow, decide_eq_true hk, Bool.false_and, Bool.xor_false]
    · have hlater : decide (i + 1 ≤ k ∧ k < i + 1 + n) = decide (i ≤ k ∧ k < i + (n + 1)) :=
        decide_eq_decide.mpr (by omega)
      rw [hlater, decide_eq_false hk, Bool.false_and, Bool.false_xor]

theorem gfmulDefault_one_left (a : Block) : gfmulDefault 1 a = a := by
  refine BitVec.eq_of_getLsbD_eq fun k hk => ?_
  have hbit := getLsbD_gfmulFrom_twoPow a (n := 128) (i := 0) le_rfl k
  rw [decide_eq_true ⟨Nat.zero_le k, by omega⟩, Bool.true_and] at hbit
  exact hbit

theorem gfmulDefault_one_right (a : Block) : gfmulDefault a 1 = a := by
  have hrest (a : Block) : gfmulFrom 1 127 1 a = 0 := gfmulFrom_of_bits_zero (fun j hj => by
    rw [BitVec.ofNat_eq_ofNat, BitVec.getLsbD_one, decide_eq_false (by omega : ¬ j = 0), Bool.and_false]) 127 a
  rw [gfmulDefault, gfmulFrom, hrest, xor_zero_block]
  rfl

/-- The product with a fixed right factor is linear in the left one. -/
theorem gfLinear_gfmulDefault (b : Block) : GfLinear fun a => gfmulDefault a b where
  map_zero := gfmulFrom_zero_left b 128 0
  map_xor := gfmulFrom_xor_left b 128 0
  map_timesX a := (gfLinear_timesX.map_gfmulFrom b 128 0 a).symm

theorem gfmulDefault_comm (a b : Block) : gfmulDefault a b = gfmulDefault b a := by
  calc gfmulDefault a b
    _ = gfmulDefault (gfmulDefault 1 a) b := by rw [gfmulDefault_one_left]
    _ = gfmulFrom a 128 0 (gfmulDefault 1 b) := (gfLinear_gfmulDefault b).map_gfmulFrom a 128 0 1
    _ = gfmulDefault b a := by rw [gfmulDefault_one_left, gfmulDefault]

/-- Settles O60: the product is linear in its right factor bit by bit, and commutative by `GfLinear.map_gfmulFrom`. -/
theorem gfmulDefaultLaws : Obligations.GfmulDefaultLaws := by
  unfold Obligations.GfmulDefaultLaws
  exact fun a b d => ⟨gfmulDefault_comm a b, gfmulFrom_of_bits_zero (fun _ _ => BitVec.getLsbD_zero) 128 a,
    gfmulDefault_one_right a, gfmulFrom_xor_right b d 128 0 a⟩

end Sys2Proof.Machine
end
